-- ==== Sys2Proof/Word.lean ====
section
/-! DEFINITION. The word types and their plainest parts: bytes, 16-bit addresses, `lo8`, `hi8`,
`word` and `sext_16` of `00_scope.md` rules R10 to R12. -/

namespace Sys2Proof

/-- A byte: every datum on the bus and the registers A, X, Y, SP (R8 `DATA_WIDTH`). -/
abbrev Byte := BitVec 8

/-- A 16-bit word: PC and every bus address (R8 `ADDR_WIDTH`). -/
abbrev Word := BitVec 16

/-- `lo8(w)`, the low byte of a word (R11). -/
def lo8 (w : Word) : Byte := w.extractLsb' 0 8

/-- `hi8(w)`, the high byte of a word, its page (R11, R19). -/
def hi8 (w : Word) : Byte := w.extractLsb' 8 8

/-- `word(hi, lo)`, the high byte first (R11). -/
def word (hi lo : Byte) : Word := hi ++ lo

/-- `zext_16(b)` (R12). -/
def zext16 (b : Byte) : Word := b.setWidth 16

/-- `sext_16(b)`, the signed displacement of a branch (R12). -/
def sext16 (b : Byte) : Word := b.signExtend 16

end Sys2Proof
end

