-- ==== Sys2Proof/Config.lean ====
section
/-! DEFINITION. What an instance of the block fixes (the parameters `DECIMAL_MODE` and
`INTERRUPT_INPUTS` of `00_scope.md` rule R8), the free values of the model, and the fixed addresses
of `20_memory.md` rules R73 and R88. -/

namespace Sys2Proof

/-- `DECIMAL_MODE` (R231, D3). -/
inductive DecimalMode where
  /-- ADC and SBC compute in binary whatever D holds (the default). -/
  | ignored
  /-- An ADC or SBC executed with D = 1 has no meaning in the model. -/
  | refuse
  deriving DecidableEq, Repr

/-- `INTERRUPT_INPUTS` (R317, D17). -/
inductive InterruptInputs where
  /-- The NMI and IRQ inputs exist (the default). -/
  | present
  /-- Neither input exists: NMI and IRQ entry never occur. -/
  | absent
  deriving DecidableEq, Repr

/-- The parameters of one instance of the block. They are an argument of the model (R8), so `State`
carries them and no step writes them (DESIGN CHOICE, log 5). -/
structure Config where
  decimalMode : DecimalMode
  interruptInputs : InterruptInputs
  deriving DecidableEq, Repr

/-- The defaults of rule R8. -/
def Config.default : Config := { decimalMode := .ignored, interruptInputs := .present }

/-- FREE VALUE (R78, U1; log 8). Whether a collaborator owns the address of a call whose answer neither
a named answer nor the tape of inputs gives, indexed by the model's own counter of draws. It has no
body: nothing can be proved about its value, so that NoOwner stays possible. -/
opaque Config.freeOwned : Nat → Bool

/-- FREE VALUE (R78, U1; log 8). The byte of such an answer to a read, with the same index. It has no
body: nothing can be proved about its value. -/
opaque Config.freeByte : Nat → Byte

/-- The NMI vector (R88). -/
def nmiVector : Word := 0xFFFA

/-- The reset vector (R88, R350). -/
def resetVector : Word := 0xFFFC

/-- The IRQ and BRK vector (R88, R291). -/
def irqVector : Word := 0xFFFE

end Sys2Proof
end

