-- ==== Sys2Proof/Syntax.lean ====
section
/-! DEFINITION. The instructions as syntax: one constructor per mnemonic of `spec/opcode_table.json`
(the 151 documented rows are the 56 mnemonics with their addressing-mode operands, the 105 `ILLEGAL`
rows are `illegal` with the opcode value, log 14), the 13 addressing modes of `30_encoding.md` rule
R101, and the shape of a table entry (R104). -/

namespace Sys2Proof

/-- The 13 addressing modes (R101). -/
inductive Mode where
  | implicit
  | accumulator
  | immediate
  | zeroPage
  | zeroPageX
  | zeroPageY
  | absolute
  | absoluteX
  | absoluteY
  | indirect
  | indirectX
  | indirectY
  | relative
  deriving DecidableEq, Repr

/-- The operand forms of the instructions that have more than one (R101): the mode with the operand
bytes it consumes. A word is `word(hi, lo)` of the two operand bytes (R103). -/
inductive Operand where
  /-- `OPC A` -/
  | accumulator
  /-- `OPC #$nn` -/
  | immediate (imm : Byte)
  /-- `OPC $nn` -/
  | zeroPage (zp : Byte)
  /-- `OPC $nn,X` -/
  | zeroPageX (zp : Byte)
  /-- `OPC $nn,Y` -/
  | zeroPageY (zp : Byte)
  /-- `OPC $hhll` -/
  | absolute (addr : Word)
  /-- `OPC $hhll,X` -/
  | absoluteX (addr : Word)
  /-- `OPC $hhll,Y` -/
  | absoluteY (addr : Word)
  /-- `JMP ($hhll)` -/
  | indirect (ptr : Word)
  /-- `OPC ($nn,X)` -/
  | indirectX (zp : Byte)
  /-- `OPC ($nn),Y` -/
  | indirectY (zp : Byte)
  deriving DecidableEq, Repr

/-- The mode of an operand form. -/
def Operand.mode : Operand → Mode
  | .accumulator => .accumulator
  | .immediate _ => .immediate
  | .zeroPage _ => .zeroPage
  | .zeroPageX _ => .zeroPageX
  | .zeroPageY _ => .zeroPageY
  | .absolute _ => .absolute
  | .absoluteX _ => .absoluteX
  | .absoluteY _ => .absoluteY
  | .indirect _ => .indirect
  | .indirectX _ => .indirectX
  | .indirectY _ => .indirectY

/-- An instruction. JSR's target and a branch's displacement byte stand alone, since each has one
mode only (R261, R263). -/
inductive Instr where
  /-- R200 -/
  | lda (o : Operand)
  /-- R201 -/
  | ldx (o : Operand)
  /-- R202 -/
  | ldy (o : Operand)
  /-- R203 -/
  | sta (o : Operand)
  /-- R204 -/
  | stx (o : Operand)
  /-- R205 -/
  | sty (o : Operand)
  /-- R206 -/
  | tax
  /-- R207 -/
  | tay
  /-- R208 -/
  | txa
  /-- R209 -/
  | tya
  /-- R210 -/
  | tsx
  /-- R211 -/
  | txs
  /-- R222 -/
  | adc (o : Operand)
  /-- R223 -/
  | sbc (o : Operand)
  /-- R224 -/
  | and (o : Operand)
  /-- R225 -/
  | ora (o : Operand)
  /-- R226 -/
  | eor (o : Operand)
  /-- R227 -/
  | cmp (o : Operand)
  /-- R228 -/
  | cpx (o : Operand)
  /-- R229 -/
  | cpy (o : Operand)
  /-- R230 -/
  | bit (o : Operand)
  /-- R241 -/
  | asl (o : Operand)
  /-- R242 -/
  | lsr (o : Operand)
  /-- R243 -/
  | rol (o : Operand)
  /-- R244 -/
  | ror (o : Operand)
  /-- R245 -/
  | inc (o : Operand)
  /-- R246 -/
  | dec (o : Operand)
  /-- R247 -/
  | inx
  /-- R248 -/
  | iny
  /-- R249 -/
  | dex
  /-- R250 -/
  | dey
  /-- R260 -/
  | jmp (o : Operand)
  /-- R261 -/
  | jsr (target : Word)
  /-- R262 -/
  | rts
  /-- R264 -/
  | bpl (d : Byte)
  /-- R265 -/
  | bmi (d : Byte)
  /-- R266 -/
  | bvc (d : Byte)
  /-- R267 -/
  | bvs (d : Byte)
  /-- R268 -/
  | bcc (d : Byte)
  /-- R269 -/
  | bcs (d : Byte)
  /-- R270 -/
  | bne (d : Byte)
  /-- R271 -/
  | beq (d : Byte)
  /-- R280 -/
  | pha
  /-- R281 -/
  | php
  /-- R282 -/
  | pla
  /-- R283 -/
  | plp
  /-- R284 -/
  | clc
  /-- R285 -/
  | sec
  /-- R286 -/
  | cli
  /-- R287 -/
  | sei
  /-- R288 -/
  | clv
  /-- R289 -/
  | cld
  /-- R290 -/
  | sed
  /-- R291 -/
  | brk
  /-- R292 -/
  | rti
  /-- R293 -/
  | nop
  /-- One of the 105 undocumented opcode values, marked `ILLEGAL` in the table (R105, R107, R163). -/
  | illegal (op : Byte)
  deriving DecidableEq, Repr

/-- The operation identifiers of the table (R104): the 56 mnemonics of rule R112. -/
inductive Mnemonic where
  | lda | ldx | ldy | sta | stx | sty | tax | tay | txa | tya | tsx | txs
  | adc | sbc | and | ora | eor | cmp | cpx | cpy | bit
  | asl | lsr | rol | ror | inc | dec | inx | iny | dex | dey
  | jmp | jsr | rts | bpl | bmi | bvc | bvs | bcc | bcs | bne | beq
  | pha | php | pla | plp | clc | sec | cli | sei | clv | cld | sed | brk | rti | nop
  deriving DecidableEq, Repr

/-- The penalty class of a table entry (R104, R168). -/
inductive Penalty where
  /-- No penalty: the base count is the cost. -/
  | none
  /-- One more cycle when the indexed address crosses a page. -/
  | read
  /-- One more cycle when taken, and one more again when the target is in another page. -/
  | branch
  deriving DecidableEq, Repr

/-- An entry of the 256-entry opcode table (R104, R105). -/
inductive Entry where
  | documented (m : Mnemonic) (mode : Mode) (base : Nat) (penalty : Penalty)
  | illegal
  deriving DecidableEq, Repr

/-- The operation of an instruction and its mode, `none` for an illegal opcode. -/
def Instr.operation : Instr → Option (Mnemonic × Mode)
  | .lda o => some (.lda, o.mode)
  | .ldx o => some (.ldx, o.mode)
  | .ldy o => some (.ldy, o.mode)
  | .sta o => some (.sta, o.mode)
  | .stx o => some (.stx, o.mode)
  | .sty o => some (.sty, o.mode)
  | .tax => some (.tax, .implicit)
  | .tay => some (.tay, .implicit)
  | .txa => some (.txa, .implicit)
  | .tya => some (.tya, .implicit)
  | .tsx => some (.tsx, .implicit)
  | .txs => some (.txs, .implicit)
  | .adc o => some (.adc, o.mode)
  | .sbc o => some (.sbc, o.mode)
  | .and o => some (.and, o.mode)
  | .ora o => some (.ora, o.mode)
  | .eor o => some (.eor, o.mode)
  | .cmp o => some (.cmp, o.mode)
  | .cpx o => some (.cpx, o.mode)
  | .cpy o => some (.cpy, o.mode)
  | .bit o => some (.bit, o.mode)
  | .asl o => some (.asl, o.mode)
  | .lsr o => some (.lsr, o.mode)
  | .rol o => some (.rol, o.mode)
  | .ror o => some (.ror, o.mode)
  | .inc o => some (.inc, o.mode)
  | .dec o => some (.dec, o.mode)
  | .inx => some (.inx, .implicit)
  | .iny => some (.iny, .implicit)
  | .dex => some (.dex, .implicit)
  | .dey => some (.dey, .implicit)
  | .jmp o => some (.jmp, o.mode)
  | .jsr _ => some (.jsr, .absolute)
  | .rts => some (.rts, .implicit)
  | .bpl _ => some (.bpl, .relative)
  | .bmi _ => some (.bmi, .relative)
  | .bvc _ => some (.bvc, .relative)
  | .bvs _ => some (.bvs, .relative)
  | .bcc _ => some (.bcc, .relative)
  | .bcs _ => some (.bcs, .relative)
  | .bne _ => some (.bne, .relative)
  | .beq _ => some (.beq, .relative)
  | .pha => some (.pha, .implicit)
  | .php => some (.php, .implicit)
  | .pla => some (.pla, .implicit)
  | .plp => some (.plp, .implicit)
  | .clc => some (.clc, .implicit)
  | .sec => some (.sec, .implicit)
  | .cli => some (.cli, .implicit)
  | .sei => some (.sei, .implicit)
  | .clv => some (.clv, .implicit)
  | .cld => some (.cld, .implicit)
  | .sed => some (.sed, .implicit)
  | .brk => some (.brk, .implicit)
  | .rti => some (.rti, .implicit)
  | .nop => some (.nop, .implicit)
  | .illegal _ => none

end Sys2Proof
end

