-- ==== Sys2Proof/WellFormed.lean ====
section
/-! DEFINITION. The instructions that exist: an operand form is well formed when the `Encoding:` line
of the instruction's rule (`42_` to `46_`) lists its mode, and an illegal opcode when `30_encoding.md`
rule R107 lists its value. -/

namespace Sys2Proof

/-- The modes of LDA, ADC, SBC, AND, ORA, EOR and CMP (R200, R222 to R227). -/
def accumulatorReadModes : List Mode :=
  [.immediate, .zeroPage, .zeroPageX, .absolute, .absoluteX, .absoluteY, .indirectX, .indirectY]

/-- The modes of LDX (R201). -/
def ldxModes : List Mode := [.immediate, .zeroPage, .zeroPageY, .absolute, .absoluteY]

/-- The modes of LDY (R202). -/
def ldyModes : List Mode := [.immediate, .zeroPage, .zeroPageX, .absolute, .absoluteX]

/-- The modes of STA (R203). -/
def staModes : List Mode :=
  [.zeroPage, .zeroPageX, .absolute, .absoluteX, .absoluteY, .indirectX, .indirectY]

/-- The modes of STX (R204). -/
def stxModes : List Mode := [.zeroPage, .zeroPageY, .absolute]

/-- The modes of STY (R205). -/
def styModes : List Mode := [.zeroPage, .zeroPageX, .absolute]

/-- The modes of CPX and CPY (R228, R229). -/
def indexCompareModes : List Mode := [.immediate, .zeroPage, .absolute]

/-- The modes of BIT (R230). -/
def bitModes : List Mode := [.zeroPage, .absolute]

/-- The modes of ASL, LSR, ROL and ROR (R241 to R244). -/
def shiftModes : List Mode := [.accumulator, .zeroPage, .zeroPageX, .absolute, .absoluteX]

/-- The modes of INC and DEC (R245, R246). -/
def incDecModes : List Mode := [.zeroPage, .zeroPageX, .absolute, .absoluteX]

/-- The modes of JMP (R260). -/
def jmpModes : List Mode := [.absolute, .indirect]

/-- The 105 illegal opcode values, in the order rule R107 lists them. -/
def illegalOpcodes : List Byte :=
  [0x02, 0x03, 0x04, 0x07, 0x0B, 0x0C, 0x0F, 0x12, 0x13, 0x14, 0x17, 0x1A, 0x1B, 0x1C, 0x1F]
  ++ [0x22, 0x23, 0x27, 0x2B, 0x2F, 0x32, 0x33, 0x34, 0x37, 0x3A, 0x3B, 0x3C, 0x3F]
  ++ [0x42, 0x43, 0x44, 0x47, 0x4B, 0x4F, 0x52, 0x53, 0x54, 0x57, 0x5A, 0x5B, 0x5C, 0x5F]
  ++ [0x62, 0x63, 0x64, 0x67, 0x6B, 0x6F, 0x72, 0x73, 0x74, 0x77, 0x7A, 0x7B, 0x7C, 0x7F]
  ++ [0x80, 0x82, 0x83, 0x87, 0x89, 0x8B, 0x8F, 0x92, 0x93, 0x97, 0x9B, 0x9C, 0x9E, 0x9F]
  ++ [0xA3, 0xA7, 0xAB, 0xAF, 0xB2, 0xB3, 0xB7, 0xBB, 0xBF]
  ++ [0xC2, 0xC3, 0xC7, 0xCB, 0xCF, 0xD2, 0xD3, 0xD4, 0xD7, 0xDA, 0xDB, 0xDC, 0xDF]
  ++ [0xE2, 0xE3, 0xE7, 0xEB, 0xEF, 0xF2, 0xF3, 0xF4, 0xF7, 0xFA, 0xFB, 0xFC, 0xFF]

/-- The instruction exists in the table (R105, R106). -/
def Instr.wf : Instr → Bool
  | .lda o => accumulatorReadModes.contains o.mode
  | .ldx o => ldxModes.contains o.mode
  | .ldy o => ldyModes.contains o.mode
  | .sta o => staModes.contains o.mode
  | .stx o => stxModes.contains o.mode
  | .sty o => styModes.contains o.mode
  | .tax => true
  | .tay => true
  | .txa => true
  | .tya => true
  | .tsx => true
  | .txs => true
  | .adc o => accumulatorReadModes.contains o.mode
  | .sbc o => accumulatorReadModes.contains o.mode
  | .and o => accumulatorReadModes.contains o.mode
  | .ora o => accumulatorReadModes.contains o.mode
  | .eor o => accumulatorReadModes.contains o.mode
  | .cmp o => accumulatorReadModes.contains o.mode
  | .cpx o => indexCompareModes.contains o.mode
  | .cpy o => indexCompareModes.contains o.mode
  | .bit o => bitModes.contains o.mode
  | .asl o => shiftModes.contains o.mode
  | .lsr o => shiftModes.contains o.mode
  | .rol o => shiftModes.contains o.mode
  | .ror o => shiftModes.contains o.mode
  | .inc o => incDecModes.contains o.mode
  | .dec o => incDecModes.contains o.mode
  | .inx => true
  | .iny => true
  | .dex => true
  | .dey => true
  | .jmp o => jmpModes.contains o.mode
  | .jsr _ => true
  | .rts => true
  | .bpl _ => true
  | .bmi _ => true
  | .bvc _ => true
  | .bvs _ => true
  | .bcc _ => true
  | .bcs _ => true
  | .bne _ => true
  | .beq _ => true
  | .pha => true
  | .php => true
  | .pla => true
  | .plp => true
  | .clc => true
  | .sec => true
  | .cli => true
  | .sei => true
  | .clv => true
  | .cld => true
  | .sed => true
  | .brk => true
  | .rti => true
  | .nop => true
  | .illegal op => illegalOpcodes.contains op

end Sys2Proof
end

