-- ==== Sys2Proof/Decode.lean ====
section
/-! DEFINITION. The instruction decoder: the 256-entry opcode table of `30_encoding.md` rules R104 to
R106 with the base cycle counts and penalty classes of `41_fetch_dispatch.md` rules R168 and R169,
decoding of a byte list (total, rejecting by name), and the encoder. -/

namespace Sys2Proof

/-- A documented entry with no penalty. -/
def fixed (m : Mnemonic) (mode : Mode) (base : Nat) : Entry := .documented m mode base .none

/-- A documented entry of penalty class `read` (`n+` in R169). -/
def crossing (m : Mnemonic) (mode : Mode) (base : Nat) : Entry := .documented m mode base .read

/-- A documented entry of penalty class `branch` (`nb` in R169). -/
def branching (m : Mnemonic) (mode : Mode) (base : Nat) : Entry := .documented m mode base .branch

/-- An entry marked illegal (`ill` in R106). -/
def ill : Entry := .illegal

/-- Opcodes 0x00 to 0x0F (R106, R169). -/
def opcodeRow0 : List Entry :=
  [
    fixed .brk .implicit 7, fixed .ora .indirectX 6, ill, ill,
    ill, fixed .ora .zeroPage 3, fixed .asl .zeroPage 5, ill,
    fixed .php .implicit 3, fixed .ora .immediate 2, fixed .asl .accumulator 2, ill,
    ill, fixed .ora .absolute 4, fixed .asl .absolute 6, ill ]

/-- Opcodes 0x10 to 0x1F (R106, R169). -/
def opcodeRow1 : List Entry :=
  [
    branching .bpl .relative 2, crossing .ora .indirectY 5, ill, ill,
    ill, fixed .ora .zeroPageX 4, fixed .asl .zeroPageX 6, ill,
    fixed .clc .implicit 2, crossing .ora .absoluteY 4, ill, ill,
    ill, crossing .ora .absoluteX 4, fixed .asl .absoluteX 7, ill ]

/-- Opcodes 0x20 to 0x2F (R106, R169). -/
def opcodeRow2 : List Entry :=
  [
    fixed .jsr .absolute 6, fixed .and .indirectX 6, ill, ill,
    fixed .bit .zeroPage 3, fixed .and .zeroPage 3, fixed .rol .zeroPage 5, ill,
    fixed .plp .implicit 4, fixed .and .immediate 2, fixed .rol .accumulator 2, ill,
    fixed .bit .absolute 4, fixed .and .absolute 4, fixed .rol .absolute 6, ill ]

/-- Opcodes 0x30 to 0x3F (R106, R169). -/
def opcodeRow3 : List Entry :=
  [
    branching .bmi .relative 2, crossing .and .indirectY 5, ill, ill,
    ill, fixed .and .zeroPageX 4, fixed .rol .zeroPageX 6, ill,
    fixed .sec .implicit 2, crossing .and .absoluteY 4, ill, ill,
    ill, crossing .and .absoluteX 4, fixed .rol .absoluteX 7, ill ]

/-- Opcodes 0x40 to 0x4F (R106, R169). -/
def opcodeRow4 : List Entry :=
  [
    fixed .rti .implicit 6, fixed .eor .indirectX 6, ill, ill,
    ill, fixed .eor .zeroPage 3, fixed .lsr .zeroPage 5, ill,
    fixed .pha .implicit 3, fixed .eor .immediate 2, fixed .lsr .accumulator 2, ill,
    fixed .jmp .absolute 3, fixed .eor .absolute 4, fixed .lsr .absolute 6, ill ]

/-- Opcodes 0x50 to 0x5F (R106, R169). -/
def opcodeRow5 : List Entry :=
  [
    branching .bvc .relative 2, crossing .eor .indirectY 5, ill, ill,
    ill, fixed .eor .zeroPageX 4, fixed .lsr .zeroPageX 6, ill,
    fixed .cli .implicit 2, crossing .eor .absoluteY 4, ill, ill,
    ill, crossing .eor .absoluteX 4, fixed .lsr .absoluteX 7, ill ]

/-- Opcodes 0x60 to 0x6F (R106, R169). -/
def opcodeRow6 : List Entry :=
  [
    fixed .rts .implicit 6, fixed .adc .indirectX 6, ill, ill,
    ill, fixed .adc .zeroPage 3, fixed .ror .zeroPage 5, ill,
    fixed .pla .implicit 4, fixed .adc .immediate 2, fixed .ror .accumulator 2, ill,
    fixed .jmp .indirect 5, fixed .adc .absolute 4, fixed .ror .absolute 6, ill ]

/-- Opcodes 0x70 to 0x7F (R106, R169). -/
def opcodeRow7 : List Entry :=
  [
    branching .bvs .relative 2, crossing .adc .indirectY 5, ill, ill,
    ill, fixed .adc .zeroPageX 4, fixed .ror .zeroPageX 6, ill,
    fixed .sei .implicit 2, crossing .adc .absoluteY 4, ill, ill,
    ill, crossing .adc .absoluteX 4, fixed .ror .absoluteX 7, ill ]

/-- Opcodes 0x80 to 0x8F (R106, R169). -/
def opcodeRow8 : List Entry :=
  [
    ill, fixed .sta .indirectX 6, ill, ill,
    fixed .sty .zeroPage 3, fixed .sta .zeroPage 3, fixed .stx .zeroPage 3, ill,
    fixed .dey .implicit 2, ill, fixed .txa .implicit 2, ill,
    fixed .sty .absolute 4, fixed .sta .absolute 4, fixed .stx .absolute 4, ill ]

/-- Opcodes 0x90 to 0x9F (R106, R169). -/
def opcodeRow9 : List Entry :=
  [
    branching .bcc .relative 2, fixed .sta .indirectY 6, ill, ill,
    fixed .sty .zeroPageX 4, fixed .sta .zeroPageX 4, fixed .stx .zeroPageY 4, ill,
    fixed .tya .implicit 2, fixed .sta .absoluteY 5, fixed .txs .implicit 2, ill,
    ill, fixed .sta .absoluteX 5, ill, ill ]

/-- Opcodes 0xA0 to 0xAF (R106, R169). -/
def opcodeRowA : List Entry :=
  [
    fixed .ldy .immediate 2, fixed .lda .indirectX 6, fixed .ldx .immediate 2, ill,
    fixed .ldy .zeroPage 3, fixed .lda .zeroPage 3, fixed .ldx .zeroPage 3, ill,
    fixed .tay .implicit 2, fixed .lda .immediate 2, fixed .tax .implicit 2, ill,
    fixed .ldy .absolute 4, fixed .lda .absolute 4, fixed .ldx .absolute 4, ill ]

/-- Opcodes 0xB0 to 0xBF (R106, R169). -/
def opcodeRowB : List Entry :=
  [
    branching .bcs .relative 2, crossing .lda .indirectY 5, ill, ill,
    fixed .ldy .zeroPageX 4, fixed .lda .zeroPageX 4, fixed .ldx .zeroPageY 4, ill,
    fixed .clv .implicit 2, crossing .lda .absoluteY 4, fixed .tsx .implicit 2, ill,
    crossing .ldy .absoluteX 4, crossing .lda .absoluteX 4, crossing .ldx .absoluteY 4, ill ]

/-- Opcodes 0xC0 to 0xCF (R106, R169). -/
def opcodeRowC : List Entry :=
  [
    fixed .cpy .immediate 2, fixed .cmp .indirectX 6, ill, ill,
    fixed .cpy .zeroPage 3, fixed .cmp .zeroPage 3, fixed .dec .zeroPage 5, ill,
    fixed .iny .implicit 2, fixed .cmp .immediate 2, fixed .dex .implicit 2, ill,
    fixed .cpy .absolute 4, fixed .cmp .absolute 4, fixed .dec .absolute 6, ill ]

/-- Opcodes 0xD0 to 0xDF (R106, R169). -/
def opcodeRowD : List Entry :=
  [
    branching .bne .relative 2, crossing .cmp .indirectY 5, ill, ill,
    ill, fixed .cmp .zeroPageX 4, fixed .dec .zeroPageX 6, ill,
    fixed .cld .implicit 2, crossing .cmp .absoluteY 4, ill, ill,
    ill, crossing .cmp .absoluteX 4, fixed .dec .absoluteX 7, ill ]

/-- Opcodes 0xE0 to 0xEF (R106, R169). -/
def opcodeRowE : List Entry :=
  [
    fixed .cpx .immediate 2, fixed .sbc .indirectX 6, ill, ill,
    fixed .cpx .zeroPage 3, fixed .sbc .zeroPage 3, fixed .inc .zeroPage 5, ill,
    fixed .inx .implicit 2, fixed .sbc .immediate 2, fixed .nop .implicit 2, ill,
    fixed .cpx .absolute 4, fixed .sbc .absolute 4, fixed .inc .absolute 6, ill ]

/-- Opcodes 0xF0 to 0xFF (R106, R169). -/
def opcodeRowF : List Entry :=
  [
    branching .beq .relative 2, crossing .sbc .indirectY 5, ill, ill,
    ill, fixed .sbc .zeroPageX 4, fixed .inc .zeroPageX 6, ill,
    fixed .sed .implicit 2, crossing .sbc .absoluteY 4, ill, ill,
    ill, crossing .sbc .absoluteX 4, fixed .inc .absoluteX 7, ill ]

/-- The opcode table: 16 rows of 16 entries, row = high nibble, column = low nibble (R104, R106). -/
def opcodeTable : List (List Entry) :=
  [opcodeRow0, opcodeRow1, opcodeRow2, opcodeRow3, opcodeRow4, opcodeRow5, opcodeRow6, opcodeRow7,
   opcodeRow8, opcodeRow9, opcodeRowA, opcodeRowB, opcodeRowC, opcodeRowD, opcodeRowE, opcodeRowF]

/-- `TABLE[op]` (R162). `none` is the defensive miss path of rules R110 and R164, which the 256
entries make unreachable. -/
def entryAt (op : Byte) : Option Entry :=
  match opcodeTable[op.toNat / 16]? with
  | some row => row[op.toNat % 16]?
  | none => none

/-- The number of operand bytes of a mode (R144). -/
def operandCount : Mode → Nat
  | .implicit => 0
  | .accumulator => 0
  | .immediate => 1
  | .zeroPage => 1
  | .zeroPageX => 1
  | .zeroPageY => 1
  | .absolute => 2
  | .absoluteX => 2
  | .absoluteY => 2
  | .indirect => 2
  | .indirectX => 1
  | .indirectY => 1
  | .relative => 1

/-- The number of operand bytes after an opcode byte, from the opcode alone (R109). An illegal opcode
consumes none. -/
def operandCountOf (op : Byte) : Nat :=
  match entryAt op with
  | some (.documented _ mode _ _) => operandCount mode
  | some .illegal => 0
  | none => 0

/-- The operand form of a mode with its operand bytes (R101, R103); `none` for the modes whose
instructions carry no operand form. -/
def operandOf (mode : Mode) (lo hi : Byte) : Option Operand :=
  match mode with
  | .implicit => none
  | .accumulator => some .accumulator
  | .immediate => some (.immediate lo)
  | .zeroPage => some (.zeroPage lo)
  | .zeroPageX => some (.zeroPageX lo)
  | .zeroPageY => some (.zeroPageY lo)
  | .absolute => some (.absolute (word hi lo))
  | .absoluteX => some (.absoluteX (word hi lo))
  | .absoluteY => some (.absoluteY (word hi lo))
  | .indirect => some (.indirect (word hi lo))
  | .indirectX => some (.indirectX lo)
  | .indirectY => some (.indirectY lo)
  | .relative => none

/-- The instruction of an operation, its mode and the operand bytes `lo` and `hi` (R102, R103). -/
def build (m : Mnemonic) (mode : Mode) (lo hi : Byte) : Option Instr :=
  match m with
  | .lda => (operandOf mode lo hi).map .lda
  | .ldx => (operandOf mode lo hi).map .ldx
  | .ldy => (operandOf mode lo hi).map .ldy
  | .sta => (operandOf mode lo hi).map .sta
  | .stx => (operandOf mode lo hi).map .stx
  | .sty => (operandOf mode lo hi).map .sty
  | .tax => some .tax
  | .tay => some .tay
  | .txa => some .txa
  | .tya => some .tya
  | .tsx => some .tsx
  | .txs => some .txs
  | .adc => (operandOf mode lo hi).map .adc
  | .sbc => (operandOf mode lo hi).map .sbc
  | .and => (operandOf mode lo hi).map .and
  | .ora => (operandOf mode lo hi).map .ora
  | .eor => (operandOf mode lo hi).map .eor
  | .cmp => (operandOf mode lo hi).map .cmp
  | .cpx => (operandOf mode lo hi).map .cpx
  | .cpy => (operandOf mode lo hi).map .cpy
  | .bit => (operandOf mode lo hi).map .bit
  | .asl => (operandOf mode lo hi).map .asl
  | .lsr => (operandOf mode lo hi).map .lsr
  | .rol => (operandOf mode lo hi).map .rol
  | .ror => (operandOf mode lo hi).map .ror
  | .inc => (operandOf mode lo hi).map .inc
  | .dec => (operandOf mode lo hi).map .dec
  | .inx => some .inx
  | .iny => some .iny
  | .dex => some .dex
  | .dey => some .dey
  | .jmp => (operandOf mode lo hi).map .jmp
  | .jsr => some (.jsr (word hi lo))
  | .rts => some .rts
  | .bpl => some (.bpl lo)
  | .bmi => some (.bmi lo)
  | .bvc => some (.bvc lo)
  | .bvs => some (.bvs lo)
  | .bcc => some (.bcc lo)
  | .bcs => some (.bcs lo)
  | .bne => some (.bne lo)
  | .beq => some (.beq lo)
  | .pha => some .pha
  | .php => some .php
  | .pla => some .pla
  | .plp => some .plp
  | .clc => some .clc
  | .sec => some .sec
  | .cli => some .cli
  | .sei => some .sei
  | .clv => some .clv
  | .cld => some .cld
  | .sed => some .sed
  | .brk => some .brk
  | .rti => some .rti
  | .nop => some .nop

/-- The instruction an opcode byte and its operand bytes stand for. An entry marked illegal and the
miss paths of rules R110 and R164 all give the illegal instruction of that opcode. -/
def instrOf (op lo hi : Byte) : Instr :=
  match entryAt op with
  | some (.documented m mode _ _) => (build m mode lo hi).getD (.illegal op)
  | some .illegal => .illegal op
  | none => .illegal op

/-- Why a list of bytes is not decoded. The 256 opcode values all decode, so only missing bytes are
rejected (log 15). -/
inductive DecodeError where
  /-- There is no opcode byte. -/
  | noBytes
  /-- The opcode's operand bytes are not all there. -/
  | truncated (op : Byte)
  deriving DecidableEq, Repr

/-- Decode the first instruction of a byte list and return the bytes after it (R100, R109). -/
def decode : List Byte → Except DecodeError (Instr × List Byte)
  | [] => .error .noBytes
  | op :: rest =>
    match operandCountOf op, rest with
    | 0, _ => .ok (instrOf op 0 0, rest)
    | 1, lo :: rest' => .ok (instrOf op lo 0, rest')
    | _ + 2, lo :: hi :: rest' => .ok (instrOf op lo hi, rest')
    | _, _ => .error (.truncated op)

/-- The instruction the decoder reads from a word numbered as `spec/opcode_table.json` numbers it:
byte 0 in bits 7:0, byte 1 in bits 15:8, byte 2 in bits 23:16, and zeros above `nbits`. -/
def decodeTableWord (nbits w : Nat) : Option Instr :=
  let v : BitVec 24 := BitVec.ofNat 24 (w % 2 ^ nbits)
  match decode [v.extractLsb' 0 8, v.extractLsb' 8 8, v.extractLsb' 16 8] with
  | .ok (i, _) => some i
  | .error _ => none

/-- The base count and penalty class of an instruction (R104). -/
structure Cost where
  base : Nat
  penalty : Penalty
  deriving DecidableEq, Repr

/-- The opcode values of each mnemonic by mode, from the `Encoding:` lines of the family files `42_` to
`46_`. -/
def opcodesOf : Mnemonic → List (Mode × Byte)
  | .lda =>
    [(.immediate, 0xA9), (.zeroPage, 0xA5), (.zeroPageX, 0xB5), (.absolute, 0xAD),
     (.absoluteX, 0xBD), (.absoluteY, 0xB9), (.indirectX, 0xA1), (.indirectY, 0xB1)]
  | .ldx =>
    [(.immediate, 0xA2), (.zeroPage, 0xA6), (.zeroPageY, 0xB6),
     (.absolute, 0xAE), (.absoluteY, 0xBE)]
  | .ldy =>
    [(.immediate, 0xA0), (.zeroPage, 0xA4), (.zeroPageX, 0xB4),
     (.absolute, 0xAC), (.absoluteX, 0xBC)]
  | .sta =>
    [(.zeroPage, 0x85), (.zeroPageX, 0x95), (.absolute, 0x8D), (.absoluteX, 0x9D),
     (.absoluteY, 0x99), (.indirectX, 0x81), (.indirectY, 0x91)]
  | .stx => [(.zeroPage, 0x86), (.zeroPageY, 0x96), (.absolute, 0x8E)]
  | .sty => [(.zeroPage, 0x84), (.zeroPageX, 0x94), (.absolute, 0x8C)]
  | .tax => [(.implicit, 0xAA)]
  | .tay => [(.implicit, 0xA8)]
  | .txa => [(.implicit, 0x8A)]
  | .tya => [(.implicit, 0x98)]
  | .tsx => [(.implicit, 0xBA)]
  | .txs => [(.implicit, 0x9A)]
  | .adc =>
    [(.immediate, 0x69), (.zeroPage, 0x65), (.zeroPageX, 0x75), (.absolute, 0x6D),
     (.absoluteX, 0x7D), (.absoluteY, 0x79), (.indirectX, 0x61), (.indirectY, 0x71)]
  | .sbc =>
    [(.immediate, 0xE9), (.zeroPage, 0xE5), (.zeroPageX, 0xF5), (.absolute, 0xED),
     (.absoluteX, 0xFD), (.absoluteY, 0xF9), (.indirectX, 0xE1), (.indirectY, 0xF1)]
  | .and =>
    [(.immediate, 0x29), (.zeroPage, 0x25), (.zeroPageX, 0x35), (.absolute, 0x2D),
     (.absoluteX, 0x3D), (.absoluteY, 0x39), (.indirectX, 0x21), (.indirectY, 0x31)]
  | .ora =>
    [(.immediate, 0x09), (.zeroPage, 0x05), (.zeroPageX, 0x15), (.absolute, 0x0D),
     (.absoluteX, 0x1D), (.absoluteY, 0x19), (.indirectX, 0x01), (.indirectY, 0x11)]
  | .eor =>
    [(.immediate, 0x49), (.zeroPage, 0x45), (.zeroPageX, 0x55), (.absolute, 0x4D),
     (.absoluteX, 0x5D), (.absoluteY, 0x59), (.indirectX, 0x41), (.indirectY, 0x51)]
  | .cmp =>
    [(.immediate, 0xC9), (.zeroPage, 0xC5), (.zeroPageX, 0xD5), (.absolute, 0xCD),
     (.absoluteX, 0xDD), (.absoluteY, 0xD9), (.indirectX, 0xC1), (.indirectY, 0xD1)]
  | .cpx => [(.immediate, 0xE0), (.zeroPage, 0xE4), (.absolute, 0xEC)]
  | .cpy => [(.immediate, 0xC0), (.zeroPage, 0xC4), (.absolute, 0xCC)]
  | .bit => [(.zeroPage, 0x24), (.absolute, 0x2C)]
  | .asl =>
    [(.accumulator, 0x0A), (.zeroPage, 0x06), (.zeroPageX, 0x16),
     (.absolute, 0x0E), (.absoluteX, 0x1E)]
  | .lsr =>
    [(.accumulator, 0x4A), (.zeroPage, 0x46), (.zeroPageX, 0x56),
     (.absolute, 0x4E), (.absoluteX, 0x5E)]
  | .rol =>
    [(.accumulator, 0x2A), (.zeroPage, 0x26), (.zeroPageX, 0x36),
     (.absolute, 0x2E), (.absoluteX, 0x3E)]
  | .ror =>
    [(.accumulator, 0x6A), (.zeroPage, 0x66), (.zeroPageX, 0x76),
     (.absolute, 0x6E), (.absoluteX, 0x7E)]
  | .inc => [(.zeroPage, 0xE6), (.zeroPageX, 0xF6), (.absolute, 0xEE), (.absoluteX, 0xFE)]
  | .dec => [(.zeroPage, 0xC6), (.zeroPageX, 0xD6), (.absolute, 0xCE), (.absoluteX, 0xDE)]
  | .inx => [(.implicit, 0xE8)]
  | .iny => [(.implicit, 0xC8)]
  | .dex => [(.implicit, 0xCA)]
  | .dey => [(.implicit, 0x88)]
  | .jmp => [(.absolute, 0x4C), (.indirect, 0x6C)]
  | .jsr => [(.absolute, 0x20)]
  | .rts => [(.implicit, 0x60)]
  | .bpl => [(.relative, 0x10)]
  | .bmi => [(.relative, 0x30)]
  | .bvc => [(.relative, 0x50)]
  | .bvs => [(.relative, 0x70)]
  | .bcc => [(.relative, 0x90)]
  | .bcs => [(.relative, 0xB0)]
  | .bne => [(.relative, 0xD0)]
  | .beq => [(.relative, 0xF0)]
  | .pha => [(.implicit, 0x48)]
  | .php => [(.implicit, 0x08)]
  | .pla => [(.implicit, 0x68)]
  | .plp => [(.implicit, 0x28)]
  | .clc => [(.implicit, 0x18)]
  | .sec => [(.implicit, 0x38)]
  | .cli => [(.implicit, 0x58)]
  | .sei => [(.implicit, 0x78)]
  | .clv => [(.implicit, 0xB8)]
  | .cld => [(.implicit, 0xD8)]
  | .sed => [(.implicit, 0xF8)]
  | .brk => [(.implicit, 0x00)]
  | .rti => [(.implicit, 0x40)]
  | .nop => [(.implicit, 0xEA)]

/-- The byte listed for a mode. -/
def opcodeIn (mode : Mode) : List (Mode × Byte) → Option Byte
  | [] => none
  | (mode', op) :: t => if mode' = mode then some op else opcodeIn mode t

/-- The opcode byte of an instruction; `none` for a mode its mnemonic does not have. -/
def Instr.opcode (i : Instr) : Option Byte :=
  match i with
  | .illegal op => some op
  | _ =>
    match i.operation with
    | some (m, mode) => opcodeIn mode (opcodesOf m)
    | none => none

/-- The base count and penalty class of an entry; an illegal entry has none. -/
def Entry.cost : Entry → Option Cost
  | .documented _ _ base penalty => some ⟨base, penalty⟩
  | .illegal => none

/-- The table's base count and penalty class of an instruction; `none` for an illegal opcode and for a
mode its mnemonic does not have. -/
def Instr.cost (i : Instr) : Option Cost :=
  match i.opcode with
  | some op =>
    match entryAt op with
    | some e => e.cost
    | none => none
  | none => none

/-- The length in bytes (R100, R109). -/
def Instr.length (i : Instr) : Nat :=
  match i.operation with
  | some (_, mode) => 1 + operandCount mode
  | none => 1

/-- The operand bytes of an operand form, low byte first (R101). -/
def Operand.bytes : Operand → List Byte
  | .accumulator => []
  | .immediate imm => [imm]
  | .zeroPage zp => [zp]
  | .zeroPageX zp => [zp]
  | .zeroPageY zp => [zp]
  | .absolute addr => [lo8 addr, hi8 addr]
  | .absoluteX addr => [lo8 addr, hi8 addr]
  | .absoluteY addr => [lo8 addr, hi8 addr]
  | .indirect ptr => [lo8 ptr, hi8 ptr]
  | .indirectX zp => [zp]
  | .indirectY zp => [zp]

/-- The operand bytes of an instruction (R101). -/
def Instr.operandBytes : Instr → List Byte
  | .lda o => o.bytes
  | .ldx o => o.bytes
  | .ldy o => o.bytes
  | .sta o => o.bytes
  | .stx o => o.bytes
  | .sty o => o.bytes
  | .tax => []
  | .tay => []
  | .txa => []
  | .tya => []
  | .tsx => []
  | .txs => []
  | .adc o => o.bytes
  | .sbc o => o.bytes
  | .and o => o.bytes
  | .ora o => o.bytes
  | .eor o => o.bytes
  | .cmp o => o.bytes
  | .cpx o => o.bytes
  | .cpy o => o.bytes
  | .bit o => o.bytes
  | .asl o => o.bytes
  | .lsr o => o.bytes
  | .rol o => o.bytes
  | .ror o => o.bytes
  | .inc o => o.bytes
  | .dec o => o.bytes
  | .inx => []
  | .iny => []
  | .dex => []
  | .dey => []
  | .jmp o => o.bytes
  | .jsr target => [lo8 target, hi8 target]
  | .rts => []
  | .bpl d => [d]
  | .bmi d => [d]
  | .bvc d => [d]
  | .bvs d => [d]
  | .bcc d => [d]
  | .bcs d => [d]
  | .bne d => [d]
  | .beq d => [d]
  | .pha => []
  | .php => []
  | .pla => []
  | .plp => []
  | .clc => []
  | .sec => []
  | .cli => []
  | .sei => []
  | .clv => []
  | .cld => []
  | .sed => []
  | .brk => []
  | .rti => []
  | .nop => []
  | .illegal _ => []

/-- The bytes of an instruction, opcode first (R100); no bytes for a form the table does not hold. -/
def encode (i : Instr) : List Byte :=
  match i.opcode with
  | some op => op :: i.operandBytes
  | none => []

end Sys2Proof
end

