-- ==== Sys2Proof/Machine/State.lean ====
section
/-! DEFINITION. The whole state of the block (`10_state.md`): the register file, the status register's
stored flags, the cycle counter, the latches of rule R59, the RAM of rule R61; and beside it, as plain
data, what the spec makes an argument of the model: the collaborators and the parameters (R8, R78).
`State.reset` is the state after power-on (R64, R350). -/

namespace Sys2Proof.Machine

/-- The stored flags of P (R43). B and U are not stored: B is held 0 and U reads 1 (R48, R49, C8), so
they have no field, and `Status.byte` (Flags.lean) puts them in. -/
structure Status where
  /-- Carry, bit 0 (R44) -/
  c : Bool
  /-- Zero, bit 1 (R45) -/
  z : Bool
  /-- InterruptDisable, bit 2 (R46) -/
  i : Bool
  /-- Decimal, bit 3 (R47) -/
  d : Bool
  /-- Overflow, bit 6 (R50) -/
  v : Bool
  /-- Negative, bit 7 (R51) -/
  n : Bool
  deriving DecidableEq, Repr

/-- The eight flags of P by name (R43). -/
inductive Flag where
  | c | z | i | d | b | u | v | n
  deriving DecidableEq, Repr

/-- The data registers (R31 to R33). -/
inductive Reg where
  | a | x | y
  deriving DecidableEq, Repr

/-- The RAM (R61): index and byte, indexes strictly rising, no entry equal to what an unlisted index
reads as (`unlistedByte`, Ops.lean). -/
abbrev Memory := List Host.Cell

/-- A collaborator's answer to a read (R78). -/
inductive Answer where
  | byte (b : Byte)
  | noOwner
  deriving DecidableEq, Repr

/-- A collaborator as the block sees it (R78): whether it is registered, and the read answers a claim
names for it, by the address it is called with (log 6). A read it names no answer for is a draw. -/
structure Collaborator where
  registered : Bool
  named : List (Nat × Answer)
  deriving DecidableEq, Repr

/-- The owner of a window outside the RAM (R73). -/
inductive Owner where
  | video | io | cart
  deriving DecidableEq, Repr

/-- A draw: what a collaborator answers to one call that no named answer covers (R78). `owned` says
whether it owns the address, `byte` is the byte a read gets. -/
structure Draw where
  owned : Bool
  byte : Byte
  deriving DecidableEq, Repr

/-- `read` or `write` (R80, D24). -/
inductive AccessKind where
  | read | write
  deriving DecidableEq, Repr

/-- A call forwarded to a registered collaborator (R78, R79), with the address the collaborator is
called with: the register index of the peripheral window, the full address of the other two. -/
inductive Call where
  | read (owner : Owner) (addr : Word)
  | write (owner : Owner) (addr : Word) (value : Byte)
  deriving DecidableEq, Repr

/-- The bus side of the machine: what stands when a step ends in an error (R170). -/
structure Bus where
  /-- `RAM[0x000]` to `RAM[0x7FF]` (R61) -/
  ram : Memory
  /-- owner of the peripheral window (R75) -/
  video : Collaborator
  /-- owner of the I/O window (R76) -/
  io : Collaborator
  /-- owner of the cartridge window (R77) -/
  cart : Collaborator
  /-- the coming draws, oldest first (R78, log 7) -/
  inputs : List Draw
  /-- the model's own count of the draws taken, the index of the free values (log 8) -/
  drawn : Nat
  /-- the calls forwarded so far, oldest first (R78, log 9) -/
  calls : List Call
  deriving DecidableEq, Repr

/-- The state of the block. -/
structure State where
  /-- accumulator (R31) -/
  a : Byte
  /-- index register X (R32) -/
  x : Byte
  /-- index register Y (R33) -/
  y : Byte
  /-- stack pointer (R39) -/
  sp : Byte
  /-- program counter (R35) -/
  pc : Word
  /-- the stored flags of the status register (R43) -/
  p : Status
  /-- cycle counter (R58) -/
  cycles : Nat
  /-- latch `reset_pending` (R59, R351) -/
  resetPending : Bool
  /-- latch `nmi_pending` (R59, R317) -/
  nmiPending : Bool
  /-- input level `irq_line` (R59, R317) -/
  irqLine : Bool
  /-- latch `i_poll` (R59, R177, R318) -/
  iPoll : Bool
  /-- the RAM and the collaborators (R61, R78) -/
  bus : Bus
  /-- the parameters of this instance (R8); no step writes them -/
  cfg : Config
  deriving DecidableEq, Repr

/-- A failing bus access: the address as the core issued it and the access kind (R80, R312). -/
structure BusError where
  addr : Word
  kind : AccessKind
  deriving DecidableEq, Repr

/-- The errors a step can report (R310 to R312). Each carries the state rule R170 leaves, from which
the driver's next step starts (R173, log 12). -/
inductive Fault where
  /-- Raised by `execIllegal` when the opcode fetched at `pc` is one of the 105 illegal values (R163,
  R311). Safe: the spec itself ends the step with this error. -/
  | illegalOpcode (opcode : Byte) (pc : Word) (left : State)
  /-- Raised by any bus access whose collaborator is unregistered or answers NoOwner (R80, R312).
  Safe: the spec itself ends the step with this error. -/
  | addressError (addr : Word) (kind : AccessKind) (left : State)
  deriving DecidableEq, Repr

/-- What the model gives no meaning to. -/
inductive Refusal where
  /-- Raised by `exec`'s arms of instructions with no meaning yet (none is left). Safe: nothing is
  claimed of them. -/
  | notModelled (mnemonic : String)
  /-- Raised by `execAdc` and `execSbc` with D = 1 when the instance has `DECIMAL_MODE = refuse`
  (R231). Safe: the spec asks for exactly this refusal. -/
  | decimalMode
  /-- Raised by `exec` on a term that is no instruction of the table, a mode its mnemonic does not have
  (log 13). Safe: the decoder never gives such a term, so no step ends so. -/
  | illFormed
  deriving DecidableEq, Repr

/-- The cartridge collaborator of `State.reset`: the reset vector of the start state that
`95_test_vectors.md` §3 writes out, and nothing else named (log 4). -/
def resetCart : Collaborator :=
  { registered := true, named := [(0xFFFC, .byte 0x00), (0xFFFD, .byte 0x80)] }

/-- The state after power-on (R64, R350) with the OPEN parameters at the values log 1 to log 4 name.
The two calls are the vector reads power-on makes. -/
def State.reset : State :=
  { a := 0
    x := 0
    y := 0
    sp := 0xFD
    pc := 0x8000
    p := { c := false, z := false, i := true, d := false, v := false, n := false }
    cycles := 0
    resetPending := false
    nmiPending := false
    irqLine := false
    iPoll := true
    bus :=
      { ram := []
        video := { registered := false, named := [] }
        io := { registered := false, named := [] }
        cart := resetCart
        inputs := []
        drawn := 0
        calls := [.read .cart 0xFFFC, .read .cart 0xFFFD] }
    cfg := Config.default }

end Sys2Proof.Machine
end

