-- ==== Sys2Proof/Machine/Flags.lean ====
section
/-! DEFINITION. The status register and every flag computation (`10_state.md` rules R43 to R56, the
ALU of `43_alu.md` rules R220, R221, R230 and the shifts of `44_shift_incdec.md` rules R241 to R244). -/

namespace Sys2Proof.Machine

/-- The bits of a byte from bit 7 down to bit 0. -/
def byteOfBits (b7 b6 b5 b4 b3 b2 b1 b0 : Bool) : Byte :=
  BitVec.ofBool b7 ++ BitVec.ofBool b6 ++ BitVec.ofBool b5 ++ BitVec.ofBool b4
    ++ BitVec.ofBool b3 ++ BitVec.ofBool b2 ++ BitVec.ofBool b1 ++ BitVec.ofBool b0

/-- `P_byte` (R55): bit 5 (U) is 1 and bit 4 (B) is 0 (R48, R49). -/
def Status.byte (p : Status) : Byte := byteOfBits p.n p.v true false p.d p.i p.z p.c

/-- `P_push(brk)` (R55): bit 5 is 1, bit 4 tells PHP and BRK from an interrupt. -/
def Status.pushed (p : Status) (brk : Bool) : Byte :=
  p.byte ||| 0x20 ||| (if brk then 0x10 else 0x00)

/-- `P_load(v)` (R56): bits 4 and 5 of `v` are ignored. -/
def Status.load (v : Byte) : Status :=
  { c := v.getLsbD 0
    z := v.getLsbD 1
    i := v.getLsbD 2
    d := v.getLsbD 3
    v := v.getLsbD 6
    n := v.getLsbD 7 }

/-- The value a flag reads as (R43, R48, R49). -/
def Status.get (p : Status) : Flag → Bool
  | .c => p.c
  | .z => p.z
  | .i => p.i
  | .d => p.d
  | .b => false
  | .u => true
  | .v => p.v
  | .n => p.n

/-- `set_flag(F, b)` (R52): writing B or U has no effect. -/
def Status.set (p : Status) (f : Flag) (b : Bool) : Status :=
  match f with
  | .c => { p with c := b }
  | .z => { p with z := b }
  | .i => { p with i := b }
  | .d => { p with d := b }
  | .b => p
  | .u => p
  | .v => { p with v := b }
  | .n => { p with n := b }

/-- `derive_zero_negative(r)` (R53). -/
def Status.deriveZN (p : Status) (r : Byte) : Status :=
  { p with z := r == 0, n := r.getLsbD 7 }

/-- The outcome of the adder (R220). -/
structure Sum where
  r : Byte
  c : Bool
  v : Bool
  deriving DecidableEq, Repr

/-- `alu_add(a, b, cin)` (R220): the exact sum, its low byte, the carry out, and two's-complement
overflow from the signs of `a`, `b` and the result. -/
def aluAdd (a b : Byte) (cin : Bool) : Sum :=
  let s := a.toNat + b.toNat + cin.toNat
  let r : Byte := BitVec.ofNat 8 s
  { r := r
    c := decide (s > 0xFF)
    v := ((a ^^^ r) &&& (b ^^^ r) &&& 0x80) != 0 }

/-- The flags after an addition: C and V from the sum, N and Z from its byte (R222, R223). -/
def Status.afterSum (p : Status) (s : Sum) : Status :=
  Status.deriveZN { p with c := s.c, v := s.v } s.r

/-- `alu_cmp(reg, m)` (R221): an unsigned comparison, V not written. -/
def Status.afterCompare (p : Status) (reg m : Byte) : Status :=
  { p with c := decide (m.toNat ≤ reg.toNat), z := reg == m, n := (reg - m).getLsbD 7 }

/-- The flags of BIT (R230): Z from `A & M`, N and V from bits 7 and 6 of `M`. -/
def Status.afterBit (p : Status) (a m : Byte) : Status :=
  { p with z := (a &&& m) == 0, n := m.getLsbD 7, v := m.getLsbD 6 }

/-- The outcome of a shift or rotate: the byte and the bit shifted out (R241 to R244). -/
structure Shifted where
  r : Byte
  c : Bool
  deriving DecidableEq, Repr

/-- ASL's byte (R241). -/
def shiftLeft (v : Byte) : Shifted := { r := v <<< 1, c := v.getLsbD 7 }

/-- LSR's byte (R242). -/
def shiftRight (v : Byte) : Shifted := { r := v >>> 1, c := v.getLsbD 0 }

/-- ROL's byte (R243): the new bit 0 is the old C. -/
def rotateLeft (v : Byte) (c : Bool) : Shifted :=
  { r := (v <<< 1) ||| (if c then 0x01 else 0x00), c := v.getLsbD 7 }

/-- ROR's byte (R244): the new bit 7 is the old C. -/
def rotateRight (v : Byte) (c : Bool) : Shifted :=
  { r := (v >>> 1) ||| (if c then 0x80 else 0x00), c := v.getLsbD 0 }

/-- The flags after a shift or rotate: C the bit shifted out, N and Z of the byte. -/
def Status.afterShift (p : Status) (s : Shifted) : Status :=
  Status.deriveZN { p with c := s.c } s.r

end Sys2Proof.Machine
end

