-- ==== Sys2Proof/Machine/Ops.lean ====
section
/-! DEFINITION. The named operations over registers, RAM, bus, stack and PC, the taking of a trap and
the return from one, and the end of a step (`10_state.md`, `20_memory.md`, `41_fetch_dispatch.md`
rules R168, R170, R177, `60_exceptions.md` rule R320). -/

namespace Sys2Proof.Machine

/-! ## Registers (R34) -/

def State.setA (s : State) (v : Byte) : State := { s with a := v }
def State.setX (s : State) (v : Byte) : State := { s with x := v }
def State.setY (s : State) (v : Byte) : State := { s with y := v }
def State.setSp (s : State) (v : Byte) : State := { s with sp := v }
def State.setPc (s : State) (v : Word) : State := { s with pc := v }
def State.setP (s : State) (v : Status) : State := { s with p := v }
def State.setCycles (s : State) (n : Nat) : State := { s with cycles := n }
def State.setResetPending (s : State) (b : Bool) : State := { s with resetPending := b }
def State.setNmiPending (s : State) (b : Bool) : State := { s with nmiPending := b }
def State.setIrqLine (s : State) (b : Bool) : State := { s with irqLine := b }
def State.setIPoll (s : State) (b : Bool) : State := { s with iPoll := b }
def State.setBus (s : State) (b : Bus) : State := { s with bus := b }

/-- The value of a data register. -/
def State.getReg (s : State) : Reg → Byte
  | .a => s.a
  | .x => s.x
  | .y => s.y

/-- Write a data register; no flag changes (R34). -/
def State.setReg (s : State) (r : Reg) (v : Byte) : State :=
  match r with
  | .a => s.setA v
  | .x => s.setX v
  | .y => s.setY v

/-- Write a data register and derive Z and N from the byte (R53, R54). -/
def State.loadReg (s : State) (r : Reg) (v : Byte) : State :=
  (s.setReg r v).setP (s.p.deriveZN v)

/-- `advance(n)` (R36): wraps at 0xFFFF. -/
def State.advance (s : State) (n : Nat) : State := s.setPc (s.pc + BitVec.ofNat 16 n)

/-- `jump(addr)` (R37). -/
def State.jump (s : State) (addr : Word) : State := s.setPc addr

/-! ## RAM (R61, R74) -/

/-- What an index of the RAM that is not listed reads as (log 3). -/
def unlistedByte : Byte := 0

/-- The canonical form of a RAM: indexes below 2048 and strictly rising, no unlisted byte listed. -/
abbrev Memory.wf (m : Memory) : Prop :=
  m.Pairwise (fun c c' => c.1 < c'.1) ∧ ∀ c ∈ m, c.1 < 2048 ∧ c.2 ≠ unlistedByte

/-- The byte at an index. -/
def Memory.read (m : Memory) (i : Nat) : Byte :=
  match m with
  | [] => unlistedByte
  | (k, v) :: t => if k = i then v else Memory.read t i

/-- Remove an index. -/
def Memory.erase (m : Memory) (i : Nat) : Memory :=
  match m with
  | [] => []
  | (k, v) :: t => if k = i then t else (k, v) :: Memory.erase t i

/-- List a byte at an index, in order. -/
def Memory.insert (m : Memory) (i : Nat) (b : Byte) : Memory :=
  match m with
  | [] => [(i, b)]
  | (k, v) :: t =>
    if i < k then (i, b) :: (k, v) :: t
    else if i = k then (i, b) :: t
    else (k, v) :: Memory.insert t i b

/-- Store a byte at an index, keeping the canonical form. -/
def Memory.write (m : Memory) (i : Nat) (b : Byte) : Memory :=
  if b = unlistedByte then Memory.erase m i else Memory.insert m i b

/-! ## The bus (R71 to R81) -/

/-- What an address resolves to (R73): an index of the RAM, or a collaborator with the address it is
called with. -/
inductive Target where
  | ram (index : Nat)
  | device (owner : Owner) (addr : Word)
  deriving DecidableEq, Repr

/-- The decode policy (R73 to R77): four windows that cover the 65536 addresses. -/
def target (addr : Word) : Target :=
  if addr < 0x2000 then .ram (addr &&& 0x07FF).toNat
  else if addr < 0x4000 then .device .video (addr &&& 0x0007)
  else if addr < 0x4020 then .device .io addr
  else .device .cart addr

/-- The collaborator of an owner. -/
def Bus.collaborator (b : Bus) : Owner → Collaborator
  | .video => b.video
  | .io => b.io
  | .cart => b.cart

/-- Replace the RAM. -/
def Bus.setRam (b : Bus) (m : Memory) : Bus := { b with ram := m }

/-- Replace the collaborator of an owner. -/
def Bus.setCollaborator (b : Bus) (o : Owner) (c : Collaborator) : Bus :=
  match o with
  | .video => { b with video := c }
  | .io => { b with io := c }
  | .cart => { b with cart := c }

/-- Record a call forwarded to a collaborator (R78, R79). -/
def Bus.record (b : Bus) (c : Call) : Bus := { b with calls := b.calls ++ [c] }

/-- The answer a claim names for an address, if any. -/
def namedAnswer (l : List (Nat × Answer)) (addr : Nat) : Option Answer :=
  match l with
  | [] => none
  | (k, r) :: t => if k = addr then some r else namedAnswer t addr

/-- The next draw (R78): the head of the tape; once the tape is used up, the free values at the count of
draws, the ownership as well as the byte (log 7, log 8). -/
def Bus.draw (b : Bus) : Draw :=
  match b.inputs with
  | d :: _ => d
  | [] => { owned := Config.freeOwned b.drawn, byte := Config.freeByte b.drawn }

/-- The bus after a draw is taken. -/
def Bus.afterDraw (b : Bus) : Bus := { b with inputs := b.inputs.tail, drawn := b.drawn + 1 }

/-- A read forwarded to a collaborator (R75 to R78): the byte, or `none` when it is unregistered or
answers NoOwner. -/
def deviceRead (o : Owner) (addr : Word) (b : Bus) : Option Byte × Bus :=
  if (b.collaborator o).registered then
    let b' := b.record (.read o addr)
    match namedAnswer (b.collaborator o).named addr.toNat with
    | some (.byte v) => (some v, b')
    | some .noOwner => (none, b')
    | none => (if b'.draw.owned then some b'.draw.byte else none, b'.afterDraw)
  else (none, b)

/-- A write forwarded to a collaborator (R75 to R79): `true` for Ok, `false` when it is unregistered
or answers NoOwner. The answer to a write is always a draw (log 6). -/
def deviceWrite (o : Owner) (addr : Word) (v : Byte) (b : Bus) : Bool × Bus :=
  if (b.collaborator o).registered then
    let b' := b.record (.write o addr v)
    (b'.draw.owned, b'.afterDraw)
  else (false, b)

/-- What a piece of a step does: it goes on with a value and a state, or a bus access in it fails
(R16), with the state at that point. -/
inductive Access (α : Type) where
  | ok (val : α) (s : State)
  | err (e : BusError) (s : State)
  deriving DecidableEq, Repr

/-- Do one piece after another; a failing access ends the step (R170). -/
def Access.bind {α β : Type} (r : Access α) (f : α → State → Access β) : Access β :=
  match r with
  | .ok v s => f v s
  | .err e s => .err e s

/-- A read on the bus (R71, R73 to R78): the byte, or `none` when no owner resolves it. -/
def busRead (addr : Word) (b : Bus) : Option Byte × Bus :=
  match target addr with
  | .ram i => (some (b.ram.read i), b)
  | .device o a => deviceRead o a b

/-- A write on the bus (R71, R73 to R79): `false` when no owner resolves it. -/
def busWrite (addr : Word) (v : Byte) (b : Bus) : Bool × Bus :=
  match target addr with
  | .ram i => (true, b.setRam (b.ram.write i v))
  | .device o a => deviceWrite o a v b

/-- `MemRead(addr, 1)` (R14, R80). -/
def memRead (addr : Word) (s : State) : Access Byte :=
  match busRead addr s.bus with
  | (some v, b) => .ok v (s.setBus b)
  | (none, b) => .err { addr := addr, kind := .read } (s.setBus b)

/-- `MemWrite(addr, 1, v)` (R14, R80). -/
def memWrite (addr : Word) (v : Byte) (s : State) : Access Unit :=
  match busWrite addr v s.bus with
  | (true, b) => .ok () (s.setBus b)
  | (false, b) => .err { addr := addr, kind := .write } (s.setBus b)

/-- `Read16(a)` (R15): the low byte first, wrapping at 0xFFFF. -/
def read16 (a : Word) (s : State) : Access Word :=
  (memRead a s).bind fun lo s1 => (memRead (a + 1) s1).bind fun hi s2 => .ok (word hi lo) s2

/-- `ZpRead16(p)` (R15): the second byte wraps within page zero. -/
def zpRead16 (p : Byte) (s : State) : Access Word :=
  (memRead (zext16 p) s).bind fun lo s1 =>
    (memRead (zext16 (p + 1)) s1).bind fun hi s2 => .ok (word hi lo) s2

/-! ## Stack (R39 to R42) -/

/-- The address of the stack byte SP designates (R39). -/
def stackAddr (sp : Byte) : Word := 0x0100 ||| zext16 sp

/-- `push(v)` (R40). -/
def push (v : Byte) (s : State) : Access Unit :=
  (memWrite (stackAddr s.sp) v s).bind fun _ s1 => .ok () (s1.setSp (s1.sp - 1))

/-- `pull()` (R41). -/
def pull (s : State) : Access Byte :=
  memRead (stackAddr (s.sp + 1)) (s.setSp (s.sp + 1))

/-- Push a word, high byte first (R82). -/
def pushWord (w : Word) (s : State) : Access Unit :=
  (push (hi8 w) s).bind fun _ s1 => push (lo8 w) s1

/-- Pull a word, low byte first (R82). -/
def pullWord (s : State) : Access Word :=
  (pull s).bind fun lo s1 => (pull s1).bind fun hi s2 => .ok (word hi lo) s2

/-! ## Traps (R291, R292, R320 to R323) -/

/-- Taking a trap, shared by BRK, NMI and IRQ (R291, R320): PC high, PC low and P are pushed, I is
set, and control goes to the word at the vector. `brk` is bit 4 of the pushed P. -/
def enterTrap (vec : Word) (brk : Bool) (s : State) : Access Unit :=
  (pushWord s.pc s).bind fun _ s1 =>
    (push (s1.p.pushed brk) s1).bind fun _ s2 =>
      (read16 vec (s2.setP (s2.p.set .i true))).bind fun target s3 => .ok () (s3.jump target)

/-- Returning from a trap (R292, R323): P, PC low, PC high are pulled; no adjustment of PC. -/
def returnFromTrap (s : State) : Access Unit :=
  (pull s).bind fun v s1 =>
    (pullWord (s1.setP (Status.load v))).bind fun target s2 => .ok () (s2.jump target)

/-! ## The end of a step (R168, R170, R177) -/

/-- What the cycle accounting needs from the execution of an instruction (R166, R167). -/
structure Flow where
  crossed : Bool
  taken : Bool
  deriving DecidableEq, Repr

/-- No page crossed, no branch taken. -/
def Flow.straight : Flow := { crossed := false, taken := false }

/-- The penalty of rule R168. -/
def penaltyCycles (p : Penalty) (f : Flow) : Nat :=
  match p with
  | .none => 0
  | .read => if f.crossed then 1 else 0
  | .branch => if f.taken then 1 + (if f.crossed then 1 else 0) else 0

/-- The state an AddressError leaves (R170): everything as before the step but the bus, on which the
completed accesses stand. `s` is the state before the step, `w` the state at the failing access. -/
def State.abort (s w : State) : State := s.setBus w.bus

/-- End a step that started at `s`: commit what was computed, or report the failing access (R170). -/
def conclude {α : Type} (s : State) (r : Access α) (retire : α → State → State) :
    Host.Outcome State Fault Refusal :=
  match r with
  | .ok v w => .next (retire v w)
  | .err e w => .fault (.addressError e.addr e.kind (s.abort w))

/-- The instructions whose change of I reaches the IRQ poll one instruction late (R177). -/
def delaysPoll : Instr → Bool
  | .cli => true
  | .sei => true
  | .plp => true
  | _ => false

/-- Account the cycles and set `i_poll` at the end of an instruction that started at `s` (R168,
R177). -/
def retire (i : Instr) (s : State) (cost : Cost) (f : Flow) (w : State) : State :=
  (w.setCycles (w.cycles + cost.base + penaltyCycles cost.penalty f)).setIPoll
    (if delaysPoll i then s.p.i else w.p.i)

/-- The frame of every documented instruction: PC past the instruction's bytes (R165, R144), the
instruction's own effect `body`, then the end of the step. `s` has PC at the opcode (log 11). A term
that is no instruction of the table is refused (log 13). -/
def runInstr (i : Instr) (s : State) (body : State → Access Flow) :
    Host.Outcome State Fault Refusal :=
  match i.cost with
  | some cost => conclude s (body (s.advance i.length)) (retire i s cost)
  | none => .refused .illFormed

end Sys2Proof.Machine
end

