-- ==== Sys2Proof/Machine/Operands.lean ====
section
/-! DEFINITION. The addressing-mode resolver (`40_addressing_modes.md` rules R130 to R147), the reading
and writing of an operand (`41_fetch_dispatch.md` rule R171, `44_shift_incdec.md` rule R240), and the
shapes the instructions share. The operand bytes are in the instruction, read by the fetch in the
order of rule R87 (log 10). -/

namespace Sys2Proof.Machine

/-- Where an operand is: A, the immediate byte itself, or the memory byte at `ea`. -/
inductive Location where
  | accumulator
  | literal (b : Byte)
  | memory (ea : Word)
  deriving DecidableEq, Repr

/-- The result of the resolver: the place of the operand and `crossed` (R130). -/
structure Resolved where
  loc : Location
  crossed : Bool
  deriving DecidableEq, Repr

/-- An indexed 16-bit address and whether it leaves the page of its base (R138, R139, R142). -/
def indexed (base : Word) (index : Byte) : Resolved :=
  let ea := base + zext16 index
  { loc := .memory ea, crossed := hi8 ea != hi8 base }

/-- The address of the second byte of a JMP pointer: the low byte wraps within the page (R140). -/
def pointerHighAddr (ptr : Word) : Word := word (hi8 ptr) (lo8 ptr + 1)

/-- `resolve(mode)` (R130 to R142). -/
def resolve (o : Operand) (s : State) : Access Resolved :=
  match o with
  | .accumulator => .ok { loc := .accumulator, crossed := false } s
  | .immediate imm => .ok { loc := .literal imm, crossed := false } s
  | .zeroPage zp => .ok { loc := .memory (zext16 zp), crossed := false } s
  | .zeroPageX zp => .ok { loc := .memory (zext16 (zp + s.x)), crossed := false } s
  | .zeroPageY zp => .ok { loc := .memory (zext16 (zp + s.y)), crossed := false } s
  | .absolute addr => .ok { loc := .memory addr, crossed := false } s
  | .absoluteX addr => .ok (indexed addr s.x) s
  | .absoluteY addr => .ok (indexed addr s.y) s
  | .indirect ptr =>
    (memRead ptr s).bind fun lo s1 =>
      (memRead (pointerHighAddr ptr) s1).bind fun hi s2 =>
        .ok { loc := .memory (word hi lo), crossed := false } s2
  | .indirectX zp =>
    (zpRead16 (zp + s.x) s).bind fun ea s1 => .ok { loc := .memory ea, crossed := false } s1
  | .indirectY zp =>
    (zpRead16 zp s).bind fun base s1 => .ok (indexed base s1.y) s1

/-- Read the operand at a place, once (R171). -/
def readLocation (l : Location) (s : State) : Access Byte :=
  match l with
  | .accumulator => .ok s.a s
  | .literal b => .ok b s
  | .memory ea => memRead ea s

/-- Write a result to a place, once (R171, R240). No instruction of the table writes to an immediate;
the literal case leaves the state alone. -/
def writeLocation (l : Location) (v : Byte) (s : State) : Access Unit :=
  match l with
  | .accumulator => .ok () (s.setA v)
  | .literal _ => .ok () s
  | .memory ea => memWrite ea v s

/-! ## The shapes of the instructions -/

/-- An instruction that reads one operand and changes registers and flags only. -/
def readShape (i : Instr) (o : Operand) (s : State) (f : Byte → State → State) :
    Host.Outcome State Fault Refusal :=
  runInstr i s fun w =>
    (resolve o w).bind fun r w1 =>
      (readLocation r.loc w1).bind fun m w2 =>
        .ok { crossed := r.crossed, taken := false } (f m w2)

/-- An instruction that stores a byte at its operand, without reading it (R203). -/
def storeShape (i : Instr) (o : Operand) (s : State) (v : State → Byte) :
    Host.Outcome State Fault Refusal :=
  runInstr i s fun w =>
    (resolve o w).bind fun r w1 =>
      (writeLocation r.loc (v w1) w1).bind fun _ w2 =>
        .ok { crossed := r.crossed, taken := false } w2

/-- A read-modify-write of A or of a memory byte (R240): one read, one write, then the flags. -/
def modifyShape (i : Instr) (o : Operand) (s : State) (f : Byte → Status → Byte × Status) :
    Host.Outcome State Fault Refusal :=
  runInstr i s fun w =>
    (resolve o w).bind fun r w1 =>
      (readLocation r.loc w1).bind fun v w2 =>
        (writeLocation r.loc (f v w2.p).1 w2).bind fun _ w3 =>
          .ok { crossed := r.crossed, taken := false } (w3.setP (f v w2.p).2)

/-- An Implicit-mode instruction with no bus access (R131). -/
def impliedShape (i : Instr) (s : State) (f : State → State) : Host.Outcome State Fault Refusal :=
  runInstr i s fun w => .ok Flow.straight (f w)

/-- An Implicit-mode instruction that uses the stack. -/
def stackShape (i : Instr) (s : State) (f : State → Access Unit) :
    Host.Outcome State Fault Refusal :=
  runInstr i s fun w => (f w).bind fun _ w1 => .ok Flow.straight w1

/-- The target of a branch: relative to the instruction after it (R143). -/
def branchTarget (next : Word) (d : Byte) : Word := next + sext16 d

/-- The common branch rule (R263): `crossed` compares the target's page with the next instruction's. -/
def branchShape (i : Instr) (d : Byte) (s : State) (cond : Bool) :
    Host.Outcome State Fault Refusal :=
  runInstr i s fun w =>
    let target := branchTarget w.pc d
    .ok { crossed := hi8 target != hi8 w.pc, taken := cond } (if cond then w.jump target else w)

end Sys2Proof.Machine
end

