-- ==== Sys2Proof/Machine/Arithmetic.lean ====
section
/-! DEFINITION. Arithmetic, logic, compare and bit test (`43_alu.md`). -/

namespace Sys2Proof.Machine

/-- Write the adder's byte to A and its flags to P (R222, R223). -/
def State.loadSum (s : State) (sum : Sum) : State :=
  (s.setA sum.r).setP (s.p.afterSum sum)

/-- Whether the instance refuses an ADC or SBC now: D = 1 under `DECIMAL_MODE = refuse` (R231). -/
def State.refusesDecimal (s : State) : Bool := s.p.d && s.cfg.decimalMode == .refuse

/-- ADC (R222, R231). -/
def execAdc (o : Operand) (s : State) : Host.Outcome State Fault Refusal :=
  if s.refusesDecimal then .refused .decimalMode
  else readShape (.adc o) o s fun m w => w.loadSum (aluAdd w.a m w.p.c)

/-- SBC (R223, R231): the addition of the complemented operand. -/
def execSbc (o : Operand) (s : State) : Host.Outcome State Fault Refusal :=
  if s.refusesDecimal then .refused .decimalMode
  else readShape (.sbc o) o s fun m w => w.loadSum (aluAdd w.a (m ^^^ 0xFF) w.p.c)

/-- AND (R224). -/
def execAnd (o : Operand) (s : State) : Host.Outcome State Fault Refusal :=
  readShape (.and o) o s fun m w => w.loadReg .a (w.a &&& m)

/-- ORA (R225). -/
def execOra (o : Operand) (s : State) : Host.Outcome State Fault Refusal :=
  readShape (.ora o) o s fun m w => w.loadReg .a (w.a ||| m)

/-- EOR (R226). -/
def execEor (o : Operand) (s : State) : Host.Outcome State Fault Refusal :=
  readShape (.eor o) o s fun m w => w.loadReg .a (w.a ^^^ m)

/-- CMP (R227). -/
def execCmp (o : Operand) (s : State) : Host.Outcome State Fault Refusal :=
  readShape (.cmp o) o s fun m w => w.setP (w.p.afterCompare w.a m)

/-- CPX (R228). -/
def execCpx (o : Operand) (s : State) : Host.Outcome State Fault Refusal :=
  readShape (.cpx o) o s fun m w => w.setP (w.p.afterCompare w.x m)

/-- CPY (R229). -/
def execCpy (o : Operand) (s : State) : Host.Outcome State Fault Refusal :=
  readShape (.cpy o) o s fun m w => w.setP (w.p.afterCompare w.y m)

/-- BIT (R230). -/
def execBit (o : Operand) (s : State) : Host.Outcome State Fault Refusal :=
  readShape (.bit o) o s fun m w => w.setP (w.p.afterBit w.a m)

end Sys2Proof.Machine
end

