-- ==== Sys2Proof/Machine/Control.lean ====
section
/-! DEFINITION. Jumps, subroutine calls and branches (`45_control_transfer.md`). -/

namespace Sys2Proof.Machine

/-- Jump to the address the resolver gives. A place that is no memory address is no form of JMP and
leaves PC alone. -/
def jumpLocation (l : Location) (s : State) : State :=
  match l with
  | .memory ea => s.jump ea
  | .accumulator => s
  | .literal _ => s

/-- JMP (R260): the byte at the target is not read. -/
def execJmp (o : Operand) (s : State) : Host.Outcome State Fault Refusal :=
  runInstr (.jmp o) s fun w =>
    (resolve o w).bind fun r w1 =>
      .ok { crossed := r.crossed, taken := false } (jumpLocation r.loc w1)

/-- JSR (R261): the address of its last byte is pushed. -/
def execJsr (dest : Word) (s : State) : Host.Outcome State Fault Refusal :=
  stackShape (.jsr dest) s fun w => (pushWord (w.pc - 1) w).bind fun _ w1 => .ok () (w1.jump dest)

/-- RTS (R262): the pulled address plus one. -/
def execRts (s : State) : Host.Outcome State Fault Refusal :=
  stackShape .rts s fun w => (pullWord w).bind fun ret w1 => .ok () (w1.jump (ret + 1))

/-- BPL (R264). -/
def execBpl (d : Byte) (s : State) : Host.Outcome State Fault Refusal :=
  branchShape (.bpl d) d s (!s.p.n)

/-- BMI (R265). -/
def execBmi (d : Byte) (s : State) : Host.Outcome State Fault Refusal :=
  branchShape (.bmi d) d s s.p.n

/-- BVC (R266). -/
def execBvc (d : Byte) (s : State) : Host.Outcome State Fault Refusal :=
  branchShape (.bvc d) d s (!s.p.v)

/-- BVS (R267). -/
def execBvs (d : Byte) (s : State) : Host.Outcome State Fault Refusal :=
  branchShape (.bvs d) d s s.p.v

/-- BCC (R268). -/
def execBcc (d : Byte) (s : State) : Host.Outcome State Fault Refusal :=
  branchShape (.bcc d) d s (!s.p.c)

/-- BCS (R269). -/
def execBcs (d : Byte) (s : State) : Host.Outcome State Fault Refusal :=
  branchShape (.bcs d) d s s.p.c

/-- BNE (R270). -/
def execBne (d : Byte) (s : State) : Host.Outcome State Fault Refusal :=
  branchShape (.bne d) d s (!s.p.z)

/-- BEQ (R271). -/
def execBeq (d : Byte) (s : State) : Host.Outcome State Fault Refusal :=
  branchShape (.beq d) d s s.p.z

end Sys2Proof.Machine
end

