-- ==== Sys2Proof/Machine/LoadStore.lean ====
section
/-! DEFINITION. Loads, stores and register transfers (`42_load_store_transfer.md`). -/

namespace Sys2Proof.Machine

/-- LDA (R200). -/
def execLda (o : Operand) (s : State) : Host.Outcome State Fault Refusal :=
  readShape (.lda o) o s fun m w => w.loadReg .a m

/-- LDX (R201). -/
def execLdx (o : Operand) (s : State) : Host.Outcome State Fault Refusal :=
  readShape (.ldx o) o s fun m w => w.loadReg .x m

/-- LDY (R202). -/
def execLdy (o : Operand) (s : State) : Host.Outcome State Fault Refusal :=
  readShape (.ldy o) o s fun m w => w.loadReg .y m

/-- STA (R203). -/
def execSta (o : Operand) (s : State) : Host.Outcome State Fault Refusal :=
  storeShape (.sta o) o s State.a

/-- STX (R204). -/
def execStx (o : Operand) (s : State) : Host.Outcome State Fault Refusal :=
  storeShape (.stx o) o s State.x

/-- STY (R205). -/
def execSty (o : Operand) (s : State) : Host.Outcome State Fault Refusal :=
  storeShape (.sty o) o s State.y

/-- TAX (R206). -/
def execTax (s : State) : Host.Outcome State Fault Refusal :=
  impliedShape .tax s fun w => w.loadReg .x w.a

/-- TAY (R207). -/
def execTay (s : State) : Host.Outcome State Fault Refusal :=
  impliedShape .tay s fun w => w.loadReg .y w.a

/-- TXA (R208). -/
def execTxa (s : State) : Host.Outcome State Fault Refusal :=
  impliedShape .txa s fun w => w.loadReg .a w.x

/-- TYA (R209). -/
def execTya (s : State) : Host.Outcome State Fault Refusal :=
  impliedShape .tya s fun w => w.loadReg .a w.y

/-- TSX (R210). -/
def execTsx (s : State) : Host.Outcome State Fault Refusal :=
  impliedShape .tsx s fun w => w.loadReg .x w.sp

/-- TXS (R211): no flag changes. -/
def execTxs (s : State) : Host.Outcome State Fault Refusal :=
  impliedShape .txs s fun w => w.setSp w.x

end Sys2Proof.Machine
end

