-- ==== Sys2Proof/Machine/Shift.lean ====
section
/-! DEFINITION. Shifts, rotates, increments and decrements (`44_shift_incdec.md`). -/

namespace Sys2Proof.Machine

/-- ASL (R240, R241). -/
def execAsl (o : Operand) (s : State) : Host.Outcome State Fault Refusal :=
  modifyShape (.asl o) o s fun v p => ((shiftLeft v).r, p.afterShift (shiftLeft v))

/-- LSR (R240, R242). -/
def execLsr (o : Operand) (s : State) : Host.Outcome State Fault Refusal :=
  modifyShape (.lsr o) o s fun v p => ((shiftRight v).r, p.afterShift (shiftRight v))

/-- ROL (R240, R243). -/
def execRol (o : Operand) (s : State) : Host.Outcome State Fault Refusal :=
  modifyShape (.rol o) o s fun v p => ((rotateLeft v p.c).r, p.afterShift (rotateLeft v p.c))

/-- ROR (R240, R244). -/
def execRor (o : Operand) (s : State) : Host.Outcome State Fault Refusal :=
  modifyShape (.ror o) o s fun v p => ((rotateRight v p.c).r, p.afterShift (rotateRight v p.c))

/-- INC (R245). -/
def execInc (o : Operand) (s : State) : Host.Outcome State Fault Refusal :=
  modifyShape (.inc o) o s fun v p => (v + 1, p.deriveZN (v + 1))

/-- DEC (R246). -/
def execDec (o : Operand) (s : State) : Host.Outcome State Fault Refusal :=
  modifyShape (.dec o) o s fun v p => (v - 1, p.deriveZN (v - 1))

/-- INX (R247). -/
def execInx (s : State) : Host.Outcome State Fault Refusal :=
  impliedShape .inx s fun w => w.loadReg .x (w.x + 1)

/-- INY (R248). -/
def execIny (s : State) : Host.Outcome State Fault Refusal :=
  impliedShape .iny s fun w => w.loadReg .y (w.y + 1)

/-- DEX (R249). -/
def execDex (s : State) : Host.Outcome State Fault Refusal :=
  impliedShape .dex s fun w => w.loadReg .x (w.x - 1)

/-- DEY (R250). -/
def execDey (s : State) : Host.Outcome State Fault Refusal :=
  impliedShape .dey s fun w => w.loadReg .y (w.y - 1)

end Sys2Proof.Machine
end

