-- ==== Sys2Proof/Machine/System.lean ====
section
/-! DEFINITION. Stack, flag and system instructions (`46_stack_flag_system.md`), and the illegal
opcodes (`41_fetch_dispatch.md` rule R163). -/

namespace Sys2Proof.Machine

/-- PHA (R280). -/
def execPha (s : State) : Host.Outcome State Fault Refusal :=
  stackShape .pha s fun w => push w.a w

/-- PHP (R281): bits 4 and 5 of the pushed byte are 1. -/
def execPhp (s : State) : Host.Outcome State Fault Refusal :=
  stackShape .php s fun w => push (w.p.pushed true) w

/-- PLA (R282). -/
def execPla (s : State) : Host.Outcome State Fault Refusal :=
  stackShape .pla s fun w => (pull w).bind fun v w1 => .ok () (w1.loadReg .a v)

/-- PLP (R283). -/
def execPlp (s : State) : Host.Outcome State Fault Refusal :=
  stackShape .plp s fun w => (pull w).bind fun v w1 => .ok () (w1.setP (Status.load v))

/-- CLC (R284). -/
def execClc (s : State) : Host.Outcome State Fault Refusal :=
  impliedShape .clc s fun w => w.setP (w.p.set .c false)

/-- SEC (R285). -/
def execSec (s : State) : Host.Outcome State Fault Refusal :=
  impliedShape .sec s fun w => w.setP (w.p.set .c true)

/-- CLI (R286). -/
def execCli (s : State) : Host.Outcome State Fault Refusal :=
  impliedShape .cli s fun w => w.setP (w.p.set .i false)

/-- SEI (R287). -/
def execSei (s : State) : Host.Outcome State Fault Refusal :=
  impliedShape .sei s fun w => w.setP (w.p.set .i true)

/-- CLV (R288). -/
def execClv (s : State) : Host.Outcome State Fault Refusal :=
  impliedShape .clv s fun w => w.setP (w.p.set .v false)

/-- CLD (R289). -/
def execCld (s : State) : Host.Outcome State Fault Refusal :=
  impliedShape .cld s fun w => w.setP (w.p.set .d false)

/-- SED (R290). -/
def execSed (s : State) : Host.Outcome State Fault Refusal :=
  impliedShape .sed s fun w => w.setP (w.p.set .d true)

/-- BRK (R291, R321): the byte after it is skipped without being read, then the trap is taken with
B = 1 in the pushed P. -/
def execBrk (s : State) : Host.Outcome State Fault Refusal :=
  stackShape .brk s fun w => enterTrap irqVector true (w.advance 1)

/-- RTI (R292). -/
def execRti (s : State) : Host.Outcome State Fault Refusal :=
  stackShape .rti s returnFromTrap

/-- NOP (R293). -/
def execNop (s : State) : Host.Outcome State Fault Refusal :=
  impliedShape .nop s fun w => w

/-- An illegal opcode (R163, R311): the step ends with `IllegalOpcode(op, pc0)` and nothing changes.
`s` has PC at the opcode. -/
def execIllegal (op : Byte) (s : State) : Host.Outcome State Fault Refusal :=
  .fault (.illegalOpcode op s.pc s)

end Sys2Proof.Machine
end

