-- ==== Sys2Proof/Machine/Events.lean ====
section
/-! DEFINITION. The steps that run no instruction: interrupt entry (`60_exceptions.md` rules R317 to
R320) and the reset sequence (`70_reset_and_hazards.md` rule R352). -/

namespace Sys2Proof.Machine

/-- The two interrupts (R317). -/
inductive Interrupt where
  | nmi | irq
  deriving DecidableEq, Repr

/-- The vector of an interrupt (R88, R320). -/
def Interrupt.vector : Interrupt → Word
  | .nmi => nmiVector
  | .irq => irqVector

/-- NMI is recognised at this boundary (R160, R318). -/
def State.nmiRecognised (s : State) : Bool :=
  s.nmiPending && s.cfg.interruptInputs == .present

/-- IRQ is recognised at this boundary (R160, R318). -/
def State.irqRecognised (s : State) : Bool :=
  s.irqLine && !s.iPoll && s.cfg.interruptInputs == .present

/-- The end of an interrupt entry (R320): 7 cycles, `i_poll` set, and NMI's latch cleared. -/
def finishEntry (k : Interrupt) (w : State) : State :=
  let w' := (w.setCycles (w.cycles + 7)).setIPoll true
  match k with
  | .nmi => w'.setNmiPending false
  | .irq => w'

/-- Interrupt entry, the whole of a step that takes NMI or IRQ (R320). -/
def enterInterrupt (k : Interrupt) (s : State) : Host.Outcome State Fault Refusal :=
  conclude s (enterTrap k.vector false s) fun _ w => finishEntry k w

/-- What the reset sequence leaves, given the word at the reset vector (R352). -/
def finishReset (v : Word) (w : State) : State :=
  let w1 := ((w.jump v).setCycles 0).setP (w.p.set .i true)
  (((w1.setSp (w.sp - 3)).setResetPending false).setNmiPending false).setIPoll true

/-- The reset sequence, the whole of a step taken with `reset_pending` (R352, R353). -/
def takeReset (s : State) : Host.Outcome State Fault Refusal :=
  conclude s (read16 resetVector s) finishReset

end Sys2Proof.Machine
end

