-- ==== Sys2Proof/Machine/Fetch.lean ====
section
/-! DEFINITION. The fetch of an instruction's bytes through the bus (`41_fetch_dispatch.md` rules R161
to R165, `20_memory.md` rule R87), and the placing of a byte where a fetch reads it. -/

namespace Sys2Proof.Machine

/-- Read the opcode at PC and then its operand bytes at increasing addresses (R161, R87, R36), and
give the instruction they stand for. Only the bus changes. An illegal opcode is read alone (R163). -/
def fetch (s : State) : Access Instr :=
  (memRead s.pc s).bind fun op s1 =>
    match operandCountOf op with
    | 0 => .ok (instrOf op 0 0) s1
    | 1 => (memRead (s.pc + 1) s1).bind fun lo s2 => .ok (instrOf op lo 0) s2
    | _ + 2 =>
      (memRead (s.pc + 1) s1).bind fun lo s2 =>
        (memRead (s.pc + 2) s2).bind fun hi s3 => .ok (instrOf op lo hi) s3

/-- Name a collaborator's read answer at an address, in order of address. -/
def nameAnswer (l : List (Nat × Answer)) (addr : Nat) (r : Answer) : List (Nat × Answer) :=
  match l with
  | [] => [(addr, r)]
  | (k, q) :: t =>
    if addr < k then (addr, r) :: (k, q) :: t
    else if addr = k then (addr, r) :: t
    else (k, q) :: nameAnswer t addr r

/-- Make the byte read at `addr` be `v`, from outside the machine: in RAM the byte itself, in a
collaborator's window the answer a registered collaborator gives (log 16). -/
def placeByte (addr : Word) (v : Byte) (s : State) : State :=
  match target addr with
  | .ram i => s.setBus (s.bus.setRam (s.bus.ram.write i v))
  | .device o a =>
    s.setBus (s.bus.setCollaborator o
      { registered := true
        named := nameAnswer (s.bus.collaborator o).named a.toNat (.byte v) })

end Sys2Proof.Machine
end

