-- ==== Sys2Proof/Machine/Step.lean ====
section
/-! DEFINITION. The step (`41_fetch_dispatch.md` rule R160), and the placing of an instruction where the
next step fetches it. -/

namespace Sys2Proof.Machine

/-- Run the instruction at PC (R161 to R168): an error of the fetch ends the step (R170). -/
def stepInstr (s : State) : Host.Outcome State Fault Refusal :=
  match fetch s with
  | .ok i w => exec i w
  | .err e w => .fault (.addressError e.addr e.kind (s.abort w))

/-- One step (R160, R319): reset, else NMI, else IRQ, else one instruction. -/
def step (s : State) : Host.Outcome State Fault Refusal :=
  if s.resetPending then takeReset s
  else if s.nmiRecognised then enterInterrupt .nmi s
  else if s.irqRecognised then enterInterrupt .irq s
  else stepInstr s

/-- `s` with the bytes of the word `w` (byte 0 in bits 7:0, zeros above `nbits`) where the next step
fetches its instruction: at PC, PC + 1 and PC + 2. No event is left pending, so that the very next step
runs that instruction (log 16). -/
def State.withFetchWord (s : State) (nbits w : Nat) : State :=
  let v : BitVec 24 := BitVec.ofNat 24 (w % 2 ^ nbits)
  let placed :=
    placeByte (s.pc + 2) (v.extractLsb' 16 8)
      (placeByte (s.pc + 1) (v.extractLsb' 8 8) (placeByte s.pc (v.extractLsb' 0 8) s))
  ((placed.setResetPending false).setNmiPending false).setIrqLine false

end Sys2Proof.Machine
end

