-- ==== Sys2Proof/Machine/Driver.lean ====
section
/-! DEFINITION. What the driver can do to the block between steps (`41_fetch_dispatch.md` rule R174,
`60_exceptions.md` rule R317, `70_reset_and_hazards.md` rules R350, R351), what it can see
(`10_state.md` rules R62, R63), and power-on. -/

namespace Sys2Proof.Machine

/-- The state an error leaves, from which the next step starts (R170, R173). -/
def Fault.left : Fault → State
  | .illegalOpcode _ _ s => s
  | .addressError _ _ s => s

/-- The error kinds of rule R310. The block raises the first two; the third is the image loader's
(R313). -/
inductive ErrorKind where
  | illegalOpcode | addressError | imageError
  deriving DecidableEq, Repr

/-- The model tags of rule R316. -/
def ErrorKind.tag : ErrorKind → Nat
  | .illegalOpcode => 0
  | .addressError => 1
  | .imageError => 2

/-- The kind of an error a step reports (R310). -/
def Fault.kind : Fault → ErrorKind
  | .illegalOpcode _ _ _ => .illegalOpcode
  | .addressError _ _ _ => .addressError

/-- `tick()` (R176). -/
def tick (s : State) : State := s.setCycles (s.cycles - 1)

/-- `request_reset()` (R351). -/
def requestReset (s : State) : State := s.setResetPending true

/-- `nmi_edge()` (R317). With `INTERRUPT_INPUTS = absent` the operation does not exist, and the state
stays. -/
def nmiEdge (s : State) : State :=
  match s.cfg.interruptInputs with
  | .present => s.setNmiPending true
  | .absent => s

/-- `set_irq(level)` (R317). With `INTERRUPT_INPUTS = absent` the operation does not exist, and the
state stays. -/
def setIrq (level : Bool) (s : State) : State :=
  match s.cfg.interruptInputs with
  | .present => s.setIrqLine level
  | .absent => s

/-- The debug snapshot (R62). -/
structure Snapshot where
  a : Byte
  x : Byte
  y : Byte
  pc : Word
  sp : Byte
  p : Byte
  cycles : Nat
  deriving DecidableEq, Repr

/-- `snapshot()` (R62): reads the state and changes nothing. -/
def snapshot (s : State) : Snapshot :=
  { a := s.a, x := s.x, y := s.y, pc := s.pc, sp := s.sp, p := s.p.byte, cycles := s.cycles }

/-- What a saved state holds (R63, D30). -/
structure SavedState where
  a : Byte
  x : Byte
  y : Byte
  sp : Byte
  pc : Word
  p : Status
  cycles : Nat
  ram : Memory
  resetPending : Bool
  nmiPending : Bool
  irqLine : Bool
  iPoll : Bool
  deriving DecidableEq, Repr

/-- The saved state of the block (R63). -/
def save (s : State) : SavedState :=
  { a := s.a, x := s.x, y := s.y, sp := s.sp, pc := s.pc, p := s.p, cycles := s.cycles
    ram := s.bus.ram, resetPending := s.resetPending, nmiPending := s.nmiPending
    irqLine := s.irqLine, iPoll := s.iPoll }

/-- Put a saved state into a block with its collaborators (R63). -/
def restore (v : SavedState) (s : State) : State :=
  { a := v.a, x := v.x, y := v.y, sp := v.sp, pc := v.pc, p := v.p, cycles := v.cycles
    resetPending := v.resetPending, nmiPending := v.nmiPending, irqLine := v.irqLine
    iPoll := v.iPoll, bus := s.bus.setRam v.ram, cfg := s.cfg }

/-- The arguments of power-on (R8, R64): the OPEN parameters, the collaborators and their coming
draws, and the parameters of the instance. -/
structure PowerOn where
  a : Byte
  x : Byte
  y : Byte
  c : Bool
  z : Bool
  d : Bool
  v : Bool
  n : Bool
  ram : Memory
  video : Collaborator
  io : Collaborator
  cart : Collaborator
  inputs : List Draw
  cfg : Config
  deriving DecidableEq, Repr

/-- The state of rule R64 before the reset vector is read; its PC is never seen. -/
def PowerOn.initial (p : PowerOn) : State :=
  { a := p.a
    x := p.x
    y := p.y
    sp := 0xFD
    pc := 0
    p := { c := p.c, z := p.z, i := true, d := p.d, v := p.v, n := p.n }
    cycles := 0
    resetPending := false
    nmiPending := false
    irqLine := false
    iPoll := true
    bus :=
      { ram := p.ram, video := p.video, io := p.io, cart := p.cart, inputs := p.inputs
        drawn := 0, calls := [] }
    cfg := p.cfg }

/-- Power-on (R350): the initial state with PC from the reset vector, or the error of the failing
vector read, and then no state exists. -/
def powerOn (p : PowerOn) : Except BusError State :=
  match read16 resetVector p.initial with
  | .ok v w => .ok (w.jump v)
  | .err e _ => .error e

/-- The driver's operations that change the state (R174). -/
inductive DriverOp where
  | step
  | tick
  | requestReset
  | nmiEdge
  | setIrq (level : Bool)
  deriving DecidableEq, Repr

/-- One operation of the driver (R174). -/
def drive (op : DriverOp) (s : State) : Host.Outcome State Fault Refusal :=
  match op with
  | .step => step s
  | .tick => .next (tick s)
  | .requestReset => .next (requestReset s)
  | .nmiEdge => .next (nmiEdge s)
  | .setIrq level => .next (setIrq level s)

end Sys2Proof.Machine
end

