-- ==== Sys2Proof/Safety.lean ====
section
/-! DEFINITION. The terms claims use: the invariant of the machine's data, what the driver can reach, a
step that completes, and the shapes in which the rules of the instruction families are stated. -/

namespace Sys2Proof

open Sys2Proof.Machine

/-! ## The invariant -/

/-- The addresses a collaborator can be called with (R73, R75 to R77). -/
def ownedAddress (o : Owner) (addr : Nat) : Bool :=
  match o with
  | .video => decide (addr < 8)
  | .io => decide (0x4000 ≤ addr ∧ addr < 0x4020)
  | .cart => decide (0x4020 ≤ addr ∧ addr < 0x10000)

/-- The canonical form of a collaborator's named answers: addresses strictly rising, each one the
collaborator can be called with. -/
abbrev Machine.Collaborator.wf (o : Owner) (c : Collaborator) : Prop :=
  c.named.Pairwise (fun q r => q.1 < r.1) ∧ ∀ q ∈ c.named, ownedAddress o q.1 = true

/-- The invariant: the RAM and the named answers are in canonical form (R61), and without interrupt
inputs neither of them is ever set (R317). -/
abbrev Machine.State.wf (s : State) : Prop :=
  Memory.wf s.bus.ram
    ∧ Collaborator.wf .video s.bus.video ∧ Collaborator.wf .io s.bus.io ∧ Collaborator.wf .cart s.bus.cart
    ∧ (s.cfg.interruptInputs = .absent → s.nmiPending = false ∧ s.irqLine = false)

/-- The arguments of power-on are in canonical form. -/
abbrev Machine.PowerOn.wf (p : PowerOn) : Prop :=
  Memory.wf p.ram ∧ Collaborator.wf .video p.video ∧ Collaborator.wf .io p.io
    ∧ Collaborator.wf .cart p.cart

/-- What the driver can reach: a power-on, any operation of the driver, and the state an error leaves
(R173, R174, R350). -/
inductive Reachable : State → Prop where
  | powerOn (p : PowerOn) (s : State) (hp : p.wf) (h : powerOn p = .ok s) : Reachable s
  | drive (s s' : State) (op : DriverOp) (hs : Reachable s) (h : drive op s = .next s') : Reachable s'
  | error (s : State) (f : Fault) (hs : Reachable s) (h : step s = .fault f) : Reachable f.left

/-! ## Outcomes -/

/-- The step completes: no error is reported and nothing is refused (R172). -/
def completes (r : Host.Outcome State Fault Refusal) : Prop := ∃ s, r = .next s

/-- The step that started at `s` ends with an AddressError: every register, latch and the counter as in
`s`, the bus as at the failing access `w` (R170, R312). -/
def abortsAt (s : State) (e : BusError) (w : State) : Host.Outcome State Fault Refusal :=
  .fault (.addressError e.addr e.kind { s with bus := w.bus })

/-- No reset, NMI or IRQ is taken at this boundary (R160). -/
def Machine.State.quiet (s : State) : Prop :=
  s.resetPending = false ∧ s.nmiRecognised = false ∧ s.irqRecognised = false

/-- An outcome seen through a map of states: `mapOutcome (·.setCycles 0)` is what an observer who cannot
see the counter sees (R362). -/
def mapOutcome (f : State → State) (r : Host.Outcome State Fault Refusal) :
    Host.Outcome State Fault Refusal :=
  match r with
  | .next s => .next (f s)
  | .fault (.illegalOpcode op pc s) => .fault (.illegalOpcode op pc (f s))
  | .fault (.addressError a k s) => .fault (.addressError a k (f s))
  | .refused r => .refused r

/-- The state with flag D at `b`. -/
def withDecimal (b : Bool) (s : State) : State := { s with p := { s.p with d := b } }

/-- Read `n` bytes at increasing addresses from `addr` on, wrapping at 0xFFFF (R87, R36). -/
def readBytes : Nat → Word → State → Access (List Byte)
  | 0, _, s => .ok [] s
  | n + 1, addr, s =>
    (memRead addr s).bind fun b w => (readBytes n (addr + 1) w).bind fun t u => .ok (b :: t) u

/-! ## The stack page (R39 to R42) -/

/-- The byte of the RAM that SP designates. -/
def stackByte (m : Memory) (sp : Byte) : Byte := m.read (0x100 + sp.toNat)

/-- The RAM after bytes are pushed one after another from SP on. -/
def pushedRam (m : Memory) (sp : Byte) : List Byte → Memory
  | [] => m
  | b :: t => pushedRam (m.write (0x100 + sp.toNat) b) (sp - 1) t

/-! ## The shapes of the instruction rules -/

/-- The cycles an instruction is charged (R168). -/
def charge (i : Instr) (crossed taken : Bool) : Nat :=
  match i.cost with
  | none => 0
  | some c =>
    c.base
      + match c.penalty with
        | .none => 0
        | .read => if crossed then 1 else 0
        | .branch => if taken then (if crossed then 2 else 1) else 0

/-- The state at the end of instruction `i`, begun at `s` with PC at its opcode, whose own effect on
registers, flags and latches is `e`: PC past its bytes, the cycles charged, `i_poll` set (R177), and
the bus as the accesses left it. -/
def after (i : Instr) (s : State) (crossed : Bool) (bus : Bus) (e : State) : State :=
  { e with
    pc := s.pc + BitVec.ofNat 16 i.length
    cycles := s.cycles + charge i crossed false
    iPoll := if i = .cli ∨ i = .sei ∨ i = .plp then s.p.i else e.p.i
    bus := bus }

/-- The place of the operand of an instruction begun at `s`, from the resolver (R166). -/
def operandPlace (i : Instr) (o : Operand) (s : State) : Access Resolved :=
  resolve o (s.advance i.length)

/-- The operand of an instruction begun at `s` and `crossed`, after the resolver's reads and the one
read of the operand (R166, R171). -/
def operandRead (i : Instr) (o : Operand) (s : State) : Access (Byte × Bool) :=
  (operandPlace i o s).bind fun r w =>
    (readLocation r.loc w).bind fun m u => .ok (m, r.crossed) u

/-- A row of an `Encoding:` line: the mode, the opcode byte, the base cycles, the penalty. -/
structure FormRow where
  mode : Mode
  opcode : Byte
  base : Nat
  penalty : Penalty
  deriving DecidableEq, Repr

/-- The `Encoding:` line of an instruction: its modes are exactly those listed, each with its opcode
and its cycles. -/
def HasForms (mk : Operand → Instr) (rows : List FormRow) : Prop :=
  ∀ o, ((mk o).wf = true ↔ o.mode ∈ rows.map FormRow.mode)
    ∧ ∀ r ∈ rows, o.mode = r.mode →
        (mk o).opcode = some r.opcode ∧ (mk o).cost = some { base := r.base, penalty := r.penalty }

/-- The one form of an instruction with no operand form. -/
def HasForm (i : Instr) (opcode : Byte) (base : Nat) (penalty : Penalty) : Prop :=
  i.wf = true ∧ i.opcode = some opcode ∧ i.cost = some { base := base, penalty := penalty }

/-- An error of the fetch, an operand byte's read among them, ends the step (R161, R170). -/
def FetchErrorEndsStep : Prop :=
  ∀ s e w, s.quiet → fetch s = .err e w → step s = abortsAt s e w

/-- The rule of an instruction that reads one operand `m` and has effect `eff m` on registers and
flags, in the states `pre` admits: it completes when the operand can be read, and otherwise reports the
failing access. -/
def ReadRuleWhen (pre : State → Prop) (mk : Operand → Instr) (eff : Byte → State → State) : Prop :=
  ∀ o s, (mk o).wf = true → pre s →
    (∀ m crossed w, operandRead (mk o) o s = .ok (m, crossed) w →
      exec (mk o) s = .next (after (mk o) s crossed w.bus (eff m s)))
    ∧ ∀ e w, operandRead (mk o) o s = .err e w → exec (mk o) s = abortsAt s e w

/-- `ReadRuleWhen` in every state. -/
def ReadRule (mk : Operand → Instr) (eff : Byte → State → State) : Prop :=
  ReadRuleWhen (fun _ => True) mk eff

/-- The rule of a store of the byte `v s`: the operand's place is found without fail, is a memory
address, and is written once and not read. -/
def StoreRule (mk : Operand → Instr) (v : State → Byte) : Prop :=
  ∀ o s, (mk o).wf = true →
    ∃ ea crossed w, operandPlace (mk o) o s = .ok ⟨.memory ea, crossed⟩ w
      ∧ (∀ u, memWrite ea (v s) w = .ok () u →
          exec (mk o) s = .next (after (mk o) s crossed u.bus s))
      ∧ ∀ e u, memWrite ea (v s) w = .err e u → exec (mk o) s = abortsAt s e u

/-- The rule of a shift in Accumulator mode (R240): A holds the operand and the result. `f v p` is the
result for operand `v` under flags `p`, with the flags afterwards. -/
def AccumulatorRule (mk : Operand → Instr) (f : Byte → Status → Byte × Status) : Prop :=
  ∀ s, exec (mk .accumulator) s = .next (after (mk .accumulator) s false s.bus
    { s with a := (f s.a s.p).1, p := (f s.a s.p).2 })

/-- The rule of a read-modify-write of a memory byte (R240): its address is found without fail, and
the byte there is read once and then written once. `f` is as in `AccumulatorRule`. -/
def MemoryModifyRule (mk : Operand → Instr) (f : Byte → Status → Byte × Status) : Prop :=
  ∀ o s, (mk o).wf = true → o ≠ .accumulator →
    ∃ ea crossed w, operandPlace (mk o) o s = .ok ⟨.memory ea, crossed⟩ w
      ∧ (∀ v u, memRead ea w = .ok v u →
          (∀ t, memWrite ea (f v s.p).1 u = .ok () t →
            exec (mk o) s = .next (after (mk o) s crossed t.bus { s with p := (f v s.p).2 }))
          ∧ ∀ e t, memWrite ea (f v s.p).1 u = .err e t → exec (mk o) s = abortsAt s e t)
      ∧ ∀ e u, memRead ea w = .err e u → exec (mk o) s = abortsAt s e u

/-- The rule of an Implicit-mode instruction that makes no bus access after the fetch: it completes in
every state with effect `eff`. -/
def ImpliedRule (i : Instr) (opcode : Byte) (base : Nat) (eff : State → State) : Prop :=
  HasForm i opcode base .none ∧ ∀ s, exec i s = .next (after i s false s.bus (eff s))

/-- The displacement of a branch as an integer, -128 to +127 (R12). -/
def displacement (d : Byte) : Int := d.toNat - 256 * (d.getLsbD 7).toNat

/-- The common branch rule (R263): taken exactly when `cond` holds, to the displacement from the next
instruction modulo 65536, with 2 cycles, 1 more when taken and 1 more when the target is in another
page than the next instruction. -/
def BranchRule (mk : Byte → Instr) (opcode : Byte) (cond : State → Bool) : Prop :=
  ∀ d s, HasForm (mk d) opcode 2 .branch
    ∧ let next : Word := BitVec.ofNat 16 (s.pc.toNat + 2)
      let target : Word := BitVec.ofInt 16 (next.toNat + displacement d)
      exec (mk d) s = .next
        { s with
          pc := if cond s then target else next
          cycles := s.cycles + 2
            + (if cond s then 1 + (if target.toNat / 256 = next.toNat / 256 then 0 else 1) else 0)
          iPoll := s.p.i }

/-- The flags with Z and N of a byte (R53). -/
def withZN (p : Status) (r : Byte) : Status :=
  { p with z := decide (r = 0), n := decide (128 ≤ r.toNat) }

end Sys2Proof
end

