-- ==== Sys2Proof/Certificates/Slice0/Obligations.lean ====
section
/-! DEFINITION. The statements about the model. `exec i s` is taken at a state `s` with PC at the opcode
of `i` whose bytes the fetch has read; `StepRunsDecodedInstruction` ties it to the step. -/

open Sys2Proof Sys2Proof.Machine

/-! ## Encoding -/

/-- Decoding the encoding of a well-formed instruction gives it back, whatever bytes follow
(`30_encoding.md`). -/
def Obligations.DecodeEncodeRoundTrip : Prop :=
  ∀ i rest, i.wf = true → decode (encode i ++ rest) = .ok (i, rest)

/-- The length is found from the first byte alone (R109), and whatever bytes decode are the encoding of a
well-formed instruction: no bit of the stream is dropped. That a list with too few bytes is rejected as
`truncated` is the model's choice (log 15): the spec reads operand bytes on the bus and has no such
list. -/
def Obligations.DecodingLosesNoBit : Prop :=
  (∀ bytes i rest, decode bytes = .ok (i, rest) → i.wf = true ∧ bytes = encode i ++ rest)
  ∧ ∀ op rest,
    (operandCountOf op ≤ rest.length → ∃ i, decode (op :: rest) = .ok (i, rest.drop (operandCountOf op))
      ∧ i.length = 1 + operandCountOf op)
    ∧ (rest.length < operandCountOf op → decode (op :: rest) = .error (.truncated op))

/-- The table is total, and its illegal entries are exactly the 105 values of rule R107; the other 151
decode to a documented instruction. -/
def Obligations.IllegalEntriesAreTheListed : Prop :=
  illegalOpcodes.length = 105 ∧ illegalOpcodes.Nodup
    ∧ (∀ op : Byte, op ∈ illegalOpcodes → entryAt op = some .illegal ∧ instrOf op 0 0 = .illegal op)
    ∧ ∀ op : Byte, op ∉ illegalOpcodes →
        ∃ m mode base penalty, entryAt op = some (.documented m mode base penalty)
          ∧ (instrOf op 0 0).operation = some (m, mode)

/-- Words written out from the spec's encodings decode to the instructions they stand for, one or more
of every family. -/
def Obligations.SpecWordsDecode : Prop :=
  decode [0xA9, 0x2B] = .ok (.lda (.immediate 0x2B), [])
    ∧ decode [0x96, 0xFF] = .ok (.stx (.zeroPageY 0xFF), [])
    ∧ decode [0x7D, 0x34, 0x12] = .ok (.adc (.absoluteX 0x1234), [])
    ∧ decode [0x6E, 0x34, 0x12] = .ok (.ror (.absolute 0x1234), [])
    ∧ decode [0x6C, 0xFF, 0x02] = .ok (.jmp (.indirect 0x02FF), [])
    ∧ decode [0xD0, 0xFB] = .ok (.bne 0xFB, [])
    ∧ decode [0x00, 0xAA] = .ok (.brk, [0xAA])
    ∧ decode [0xFF] = .ok (.illegal 0xFF, [])

/-! ## The bus -/

/-- The RAM window: four mirrors of 2048 bytes, and no access of it fails (R74). -/
def Obligations.RamWindowIsMirrored : Prop :=
  ∀ (addr : Word) (s : State), addr.toNat < 0x2000 →
    memRead addr s = .ok (s.bus.ram.read (addr.toNat % 0x800)) s
    ∧ (∀ v, memWrite addr v s =
        .ok () { s with bus := { s.bus with ram := s.bus.ram.write (addr.toNat % 0x800) v } })
    ∧ ∀ v t (addr' : Word), s.wf → memWrite addr v s = .ok () t → addr'.toNat < 0x2000 →
        memRead addr' t =
          .ok (if addr'.toNat % 0x800 = addr.toNat % 0x800 then v
            else s.bus.ram.read (addr'.toNat % 0x800)) t

/-- The three collaborator windows: the peripheral window by register index, the other two with the
full address (R75, R76, and R77's forwarding). -/
def Obligations.WindowsForwardToTheirOwner : Prop :=
  ∀ (addr : Word) (v : Byte) (b : Bus),
    (0x2000 ≤ addr.toNat ∧ addr.toNat < 0x4000 →
      busRead addr b = deviceRead .video (BitVec.ofNat 16 (addr.toNat % 8)) b
      ∧ busWrite addr v b = deviceWrite .video (BitVec.ofNat 16 (addr.toNat % 8)) v b)
    ∧ (0x4000 ≤ addr.toNat ∧ addr.toNat < 0x4020 →
      busRead addr b = deviceRead .io addr b ∧ busWrite addr v b = deviceWrite .io addr v b)
    ∧ (0x4020 ≤ addr.toNat →
      busRead addr b = deviceRead .cart addr b ∧ busWrite addr v b = deviceWrite .cart addr v b)

/-- An AddressError is raised exactly when the collaborator of the address is unregistered or answers
NoOwner, with the address as issued; the failing access changes no register and no byte of the RAM (R80, R81).
The model's choice (log 6): an answer to a write is always a draw, and no access changes a collaborator's
named answers. -/
def Obligations.AddressErrorExactlyWithoutOwner : Prop :=
  ∀ (addr : Word) (v : Byte) (s : State),
    ((∃ e w, memRead addr s = .err e w) ↔ ∃ o a, target addr = .device o a
      ∧ ((s.bus.collaborator o).registered = false
        ∨ namedAnswer (s.bus.collaborator o).named a.toNat = some .noOwner
        ∨ namedAnswer (s.bus.collaborator o).named a.toNat = none ∧ s.bus.draw.owned = false))
    ∧ ((∃ e w, memWrite addr v s = .err e w) ↔ ∃ o a, target addr = .device o a
      ∧ ((s.bus.collaborator o).registered = false ∨ s.bus.draw.owned = false))
    ∧ (∀ e w, memRead addr s = .err e w →
        e = { addr := addr, kind := .read } ∧ w = { s with bus := w.bus } ∧ w.bus.ram = s.bus.ram
        ∧ w.bus.video = s.bus.video ∧ w.bus.io = s.bus.io ∧ w.bus.cart = s.bus.cart)
    ∧ ∀ e w, memWrite addr v s = .err e w →
        e = { addr := addr, kind := .write } ∧ w = { s with bus := w.bus } ∧ w.bus.ram = s.bus.ram
        ∧ w.bus.video = s.bus.video ∧ w.bus.io = s.bus.io ∧ w.bus.cart = s.bus.cart

/-- A write into a collaborator window is forwarded to a registered collaborator, once, at once, with
its address and value (R79), and never changes the RAM; a forwarded write is an event recorded (R78). The
model's choice (log 9): the call is appended to the record whatever it is answered, NoOwner included, and
an unregistered collaborator is not called. -/
def Obligations.ForwardedWritesAreRecorded : Prop :=
  ∀ (addr a : Word) (v : Byte) (b : Bus) (o : Owner), target addr = .device o a →
    (busWrite addr v b).2.ram = b.ram
    ∧ ((b.collaborator o).registered = true →
        (busWrite addr v b).2.calls = b.calls ++ [.write o a v])
    ∧ ((b.collaborator o).registered = false → busWrite addr v b = (false, b))

/-! ## Addressing modes -/

/-- The zero-page modes: 8-bit wrap of the indexed address, never a second page, never crossed (R134 to
R136). -/
def Obligations.ZeroPageIndexWraps : Prop :=
  ∀ (b : Byte) (s : State),
    resolve (.zeroPage b) s = .ok ⟨.memory (BitVec.ofNat 16 b.toNat), false⟩ s
    ∧ resolve (.zeroPageX b) s
        = .ok ⟨.memory (BitVec.ofNat 16 ((b.toNat + s.x.toNat) % 256)), false⟩ s
    ∧ resolve (.zeroPageY b) s
        = .ok ⟨.memory (BitVec.ofNat 16 ((b.toNat + s.y.toNat) % 256)), false⟩ s

/-- The absolute modes: 16-bit wrap of the indexed address, crossed exactly when the high bytes differ
(R137 to R139). -/
def Obligations.AbsoluteIndexWrapsAndCrosses : Prop :=
  ∀ (base : Word) (s : State),
    resolve (.absolute base) s = .ok ⟨.memory base, false⟩ s
    ∧ (∃ ea : Word, ea.toNat = (base.toNat + s.x.toNat) % 65536
        ∧ resolve (.absoluteX base) s
          = .ok ⟨.memory ea, decide (ea.toNat / 256 ≠ base.toNat / 256)⟩ s)
    ∧ ∃ ea : Word, ea.toNat = (base.toNat + s.y.toNat) % 65536
        ∧ resolve (.absoluteY base) s
          = .ok ⟨.memory ea, decide (ea.toNat / 256 ≠ base.toNat / 256)⟩ s

/-- Indirect (JMP): the low byte of the target at the pointer, the high byte from the next address in
the SAME page (R140). -/
def Obligations.IndirectPointerWrapsInPage : Prop :=
  ∀ (ptr : Word) (s : State),
    resolve (.indirect ptr) s =
      (memRead ptr s).bind fun lo s1 =>
        (memRead (BitVec.ofNat 16 (ptr.toNat / 256 * 256 + (ptr.toNat % 256 + 1) % 256)) s1).bind
          fun hi s2 => .ok ⟨.memory (BitVec.ofNat 16 (256 * hi.toNat + lo.toNat)), false⟩ s2

/-- Indirect,X and Indirect,Y: the pointer is two bytes of page zero of the RAM, the second wrapping
within the page; Y is added modulo 65536, crossed exactly when the high bytes differ (R141, R142). -/
def Obligations.ZeroPagePointersWrap : Prop :=
  ∀ (b : Byte) (s : State),
    resolve (.indirectX b) s =
      .ok ⟨.memory (word (s.bus.ram.read ((b.toNat + s.x.toNat + 1) % 256))
        (s.bus.ram.read ((b.toNat + s.x.toNat) % 256))), false⟩ s
    ∧ ∃ base ea : Word,
        base = word (s.bus.ram.read ((b.toNat + 1) % 256)) (s.bus.ram.read b.toNat)
        ∧ ea.toNat = (base.toNat + s.y.toNat) % 65536
        ∧ resolve (.indirectY b) s
          = .ok ⟨.memory ea, decide (ea.toNat / 256 ≠ base.toNat / 256)⟩ s

/-- The resolver crosses pages in the Absolute-indexed and Indirect,Y modes only (R146; the Relative
mode is the branches'), and makes reads only (R130): nothing but the bus changes, and the RAM does not.
That the reads change no collaborator's named answers is the model's choice (log 6); R86 lets a read have
effects in a device. -/
def Obligations.ResolverCrossesOnlyWhenIndexed : Prop :=
  ∀ (o : Operand) (s w : State) (r : Resolved), resolve o s = .ok r w →
    (r.crossed = true → o.mode = .absoluteX ∨ o.mode = .absoluteY ∨ o.mode = .indirectY)
    ∧ w = { s with bus := w.bus } ∧ w.bus.ram = s.bus.ram
    ∧ w.bus.video = s.bus.video ∧ w.bus.io = s.bus.io ∧ w.bus.cart = s.bus.cart

/-! ## Loads, stores, transfers -/

/-- LDA, LDX, LDY (R200 to R202). -/
def Obligations.LoadsLoadAndSetZN : Prop :=
  FetchErrorEndsStep
  ∧ HasForms .lda
      [⟨.immediate, 0xA9, 2, .none⟩, ⟨.zeroPage, 0xA5, 3, .none⟩, ⟨.zeroPageX, 0xB5, 4, .none⟩,
       ⟨.absolute, 0xAD, 4, .none⟩, ⟨.absoluteX, 0xBD, 4, .read⟩, ⟨.absoluteY, 0xB9, 4, .read⟩,
       ⟨.indirectX, 0xA1, 6, .none⟩, ⟨.indirectY, 0xB1, 5, .read⟩]
  ∧ ReadRule .lda (fun m s => { s with a := m, p := withZN s.p m })
  ∧ HasForms .ldx
      [⟨.immediate, 0xA2, 2, .none⟩, ⟨.zeroPage, 0xA6, 3, .none⟩, ⟨.zeroPageY, 0xB6, 4, .none⟩,
       ⟨.absolute, 0xAE, 4, .none⟩, ⟨.absoluteY, 0xBE, 4, .read⟩]
  ∧ ReadRule .ldx (fun m s => { s with x := m, p := withZN s.p m })
  ∧ HasForms .ldy
      [⟨.immediate, 0xA0, 2, .none⟩, ⟨.zeroPage, 0xA4, 3, .none⟩, ⟨.zeroPageX, 0xB4, 4, .none⟩,
       ⟨.absolute, 0xAC, 4, .none⟩, ⟨.absoluteX, 0xBC, 4, .read⟩]
  ∧ ReadRule .ldy (fun m s => { s with y := m, p := withZN s.p m })

/-- STA, STX, STY: one write, no read of the location, no flag, no page-cross penalty (R203 to R205). -/
def Obligations.StoresWriteOnce : Prop :=
  FetchErrorEndsStep
  ∧ HasForms .sta
      [⟨.zeroPage, 0x85, 3, .none⟩, ⟨.zeroPageX, 0x95, 4, .none⟩, ⟨.absolute, 0x8D, 4, .none⟩,
       ⟨.absoluteX, 0x9D, 5, .none⟩, ⟨.absoluteY, 0x99, 5, .none⟩, ⟨.indirectX, 0x81, 6, .none⟩,
       ⟨.indirectY, 0x91, 6, .none⟩]
  ∧ StoreRule .sta State.a
  ∧ HasForms .stx
      [⟨.zeroPage, 0x86, 3, .none⟩, ⟨.zeroPageY, 0x96, 4, .none⟩, ⟨.absolute, 0x8E, 4, .none⟩]
  ∧ StoreRule .stx State.x
  ∧ HasForms .sty
      [⟨.zeroPage, 0x84, 3, .none⟩, ⟨.zeroPageX, 0x94, 4, .none⟩, ⟨.absolute, 0x8C, 4, .none⟩]
  ∧ StoreRule .sty State.y

/-- TAX, TAY, TXA, TYA, TSX set Z and N of the byte; TXS sets no flag (R206 to R211). -/
def Obligations.TransfersCopyRegisters : Prop :=
  ImpliedRule .tax 0xAA 2 (fun s => { s with x := s.a, p := withZN s.p s.a })
  ∧ ImpliedRule .tay 0xA8 2 (fun s => { s with y := s.a, p := withZN s.p s.a })
  ∧ ImpliedRule .txa 0x8A 2 (fun s => { s with a := s.x, p := withZN s.p s.x })
  ∧ ImpliedRule .tya 0x98 2 (fun s => { s with a := s.y, p := withZN s.p s.y })
  ∧ ImpliedRule .tsx 0xBA 2 (fun s => { s with x := s.sp, p := withZN s.p s.sp })
  ∧ ImpliedRule .txs 0x9A 2 (fun s => { s with sp := s.x })

/-! ## Arithmetic, logic, compare -/

/-- The adder: the low byte and the carry of the exact sum, and overflow exactly when the operands have
the same sign and the result another (R220). -/
def Obligations.AdderCarryAndOverflow : Prop :=
  ∀ (a b : Byte) (cin : Bool),
    (aluAdd a b cin).r.toNat = (a.toNat + b.toNat + cin.toNat) % 256
    ∧ ((aluAdd a b cin).c = true ↔ 255 < a.toNat + b.toNat + cin.toNat)
    ∧ ((aluAdd a b cin).v = true ↔
        (128 ≤ a.toNat ↔ 128 ≤ b.toNat) ∧ ¬(128 ≤ a.toNat ↔ 128 ≤ (aluAdd a b cin).r.toNat))

/-- ADC in every state that rule R231 does not refuse (R222): D is not read. -/
def Obligations.AdcAddsWithCarry : Prop :=
  FetchErrorEndsStep
  ∧ HasForms .adc
      [⟨.immediate, 0x69, 2, .none⟩, ⟨.zeroPage, 0x65, 3, .none⟩, ⟨.zeroPageX, 0x75, 4, .none⟩,
       ⟨.absolute, 0x6D, 4, .none⟩, ⟨.absoluteX, 0x7D, 4, .read⟩, ⟨.absoluteY, 0x79, 4, .read⟩,
       ⟨.indirectX, 0x61, 6, .none⟩, ⟨.indirectY, 0x71, 5, .read⟩]
  ∧ ReadRuleWhen (fun s => s.cfg.decimalMode = .ignored ∨ s.p.d = false) .adc fun m s =>
      let sum := s.a.toNat + m.toNat + s.p.c.toNat
      let r : Byte := BitVec.ofNat 8 sum
      { s with
        a := r
        p := withZN
          { s.p with c := decide (255 < sum), v := decide ((s.a ^^^ r) &&& (m ^^^ r) &&& 0x80 ≠ 0) } r }

/-- SBC in every state that rule R231 does not refuse, as the exact subtraction A - M - (1 - C) (R223):
C is 1 iff there is no borrow. -/
def Obligations.SbcSubtractsWithBorrow : Prop :=
  FetchErrorEndsStep
  ∧ HasForms .sbc
      [⟨.immediate, 0xE9, 2, .none⟩, ⟨.zeroPage, 0xE5, 3, .none⟩, ⟨.zeroPageX, 0xF5, 4, .none⟩,
       ⟨.absolute, 0xED, 4, .none⟩, ⟨.absoluteX, 0xFD, 4, .read⟩, ⟨.absoluteY, 0xF9, 4, .read⟩,
       ⟨.indirectX, 0xE1, 6, .none⟩, ⟨.indirectY, 0xF1, 5, .read⟩]
  ∧ ReadRuleWhen (fun s => s.cfg.decimalMode = .ignored ∨ s.p.d = false) .sbc fun m s =>
      let diff : Int := s.a.toNat - m.toNat - (1 - s.p.c.toNat)
      let r : Byte := BitVec.ofInt 8 diff
      { s with
        a := r
        p := withZN
          { s.p with c := decide (0 ≤ diff), v := decide ((s.a ^^^ m) &&& (s.a ^^^ r) &&& 0x80 ≠ 0) } r }

/-- `DECIMAL_MODE = refuse` refuses an ADC or SBC with D = 1 (R231). That it does so whatever the operand,
before an operand read that would fail, is the model's order (log 17), and so is it for a term with a mode
that ADC and SBC do not have, which no decoder gives (log 13). -/
def Obligations.DecimalModeRefuses : Prop :=
  ∀ o s, s.cfg.decimalMode = .refuse → s.p.d = true →
    exec (.adc o) s = .refused .decimalMode ∧ exec (.sbc o) s = .refused .decimalMode

/-- Under `DECIMAL_MODE = ignored` D changes what no instruction does, but what PHP and BRK push: every
other instruction that does not write D gives the same outcome for both values of D, D apart (R47,
R231). -/
def Obligations.DecimalFlagIsIgnored : Prop :=
  ∀ (i : Instr) (s : State) (b : Bool), s.cfg.decimalMode = .ignored →
    i ≠ .php → i ≠ .brk → i ≠ .sed → i ≠ .cld → i ≠ .plp → i ≠ .rti →
      exec i (withDecimal b s) = mapOutcome (withDecimal b) (exec i s)

/-- AND, ORA, EOR (R224 to R226). -/
def Obligations.LogicCombinesBits : Prop :=
  FetchErrorEndsStep
  ∧ HasForms .and
      [⟨.immediate, 0x29, 2, .none⟩, ⟨.zeroPage, 0x25, 3, .none⟩, ⟨.zeroPageX, 0x35, 4, .none⟩,
       ⟨.absolute, 0x2D, 4, .none⟩, ⟨.absoluteX, 0x3D, 4, .read⟩, ⟨.absoluteY, 0x39, 4, .read⟩,
       ⟨.indirectX, 0x21, 6, .none⟩, ⟨.indirectY, 0x31, 5, .read⟩]
  ∧ ReadRule .and (fun m s => { s with a := s.a &&& m, p := withZN s.p (s.a &&& m) })
  ∧ HasForms .ora
      [⟨.immediate, 0x09, 2, .none⟩, ⟨.zeroPage, 0x05, 3, .none⟩, ⟨.zeroPageX, 0x15, 4, .none⟩,
       ⟨.absolute, 0x0D, 4, .none⟩, ⟨.absoluteX, 0x1D, 4, .read⟩, ⟨.absoluteY, 0x19, 4, .read⟩,
       ⟨.indirectX, 0x01, 6, .none⟩, ⟨.indirectY, 0x11, 5, .read⟩]
  ∧ ReadRule .ora (fun m s => { s with a := s.a ||| m, p := withZN s.p (s.a ||| m) })
  ∧ HasForms .eor
      [⟨.immediate, 0x49, 2, .none⟩, ⟨.zeroPage, 0x45, 3, .none⟩, ⟨.zeroPageX, 0x55, 4, .none⟩,
       ⟨.absolute, 0x4D, 4, .none⟩, ⟨.absoluteX, 0x5D, 4, .read⟩, ⟨.absoluteY, 0x59, 4, .read⟩,
       ⟨.indirectX, 0x41, 6, .none⟩, ⟨.indirectY, 0x51, 5, .read⟩]
  ∧ ReadRule .eor (fun m s => { s with a := s.a ^^^ m, p := withZN s.p (s.a ^^^ m) })

/-- CMP, CPX, CPY: an unsigned comparison, N the sign bit of the difference modulo 256, V untouched and
no register written (R221, R227 to R229). -/
def Obligations.ComparesSetCarryZeroNegative : Prop :=
  FetchErrorEndsStep
  ∧ HasForms .cmp
      [⟨.immediate, 0xC9, 2, .none⟩, ⟨.zeroPage, 0xC5, 3, .none⟩, ⟨.zeroPageX, 0xD5, 4, .none⟩,
       ⟨.absolute, 0xCD, 4, .none⟩, ⟨.absoluteX, 0xDD, 4, .read⟩, ⟨.absoluteY, 0xD9, 4, .read⟩,
       ⟨.indirectX, 0xC1, 6, .none⟩, ⟨.indirectY, 0xD1, 5, .read⟩]
  ∧ ReadRule .cmp (fun m s => { s with p := { s.p with
      c := decide (m.toNat ≤ s.a.toNat), z := decide (s.a = m)
      n := decide (128 ≤ (s.a.toNat + 256 - m.toNat) % 256) } })
  ∧ HasForms .cpx
      [⟨.immediate, 0xE0, 2, .none⟩, ⟨.zeroPage, 0xE4, 3, .none⟩, ⟨.absolute, 0xEC, 4, .none⟩]
  ∧ ReadRule .cpx (fun m s => { s with p := { s.p with
      c := decide (m.toNat ≤ s.x.toNat), z := decide (s.x = m)
      n := decide (128 ≤ (s.x.toNat + 256 - m.toNat) % 256) } })
  ∧ HasForms .cpy
      [⟨.immediate, 0xC0, 2, .none⟩, ⟨.zeroPage, 0xC4, 3, .none⟩, ⟨.absolute, 0xCC, 4, .none⟩]
  ∧ ReadRule .cpy (fun m s => { s with p := { s.p with
      c := decide (m.toNat ≤ s.y.toNat), z := decide (s.y = m)
      n := decide (128 ≤ (s.y.toNat + 256 - m.toNat) % 256) } })

/-- BIT: Z from A & M, N and V from bits 7 and 6 of M, C and A untouched (R230). -/
def Obligations.BitTestsMemory : Prop :=
  FetchErrorEndsStep
  ∧ HasForms .bit [⟨.zeroPage, 0x24, 3, .none⟩, ⟨.absolute, 0x2C, 4, .none⟩]
  ∧ ReadRule .bit (fun m s => { s with p := { s.p with
      z := decide (s.a &&& m = 0), n := m.getLsbD 7, v := m.getLsbD 6 } })

/-! ## Shifts, increments, decrements -/

/-- ASL, LSR, ROL, ROR of A or of a memory byte (R240 to R244). -/
def Obligations.ShiftsMoveBitsThroughCarry : Prop :=
  let asl := fun (v : Byte) (p : Status) =>
    let r : Byte := BitVec.ofNat 8 (2 * v.toNat)
    (r, withZN { p with c := v.getLsbD 7 } r)
  let lsr := fun (v : Byte) (p : Status) =>
    let r : Byte := BitVec.ofNat 8 (v.toNat / 2)
    (r, withZN { p with c := v.getLsbD 0 } r)
  let rol := fun (v : Byte) (p : Status) =>
    let r : Byte := BitVec.ofNat 8 (2 * v.toNat + p.c.toNat)
    (r, withZN { p with c := v.getLsbD 7 } r)
  let ror := fun (v : Byte) (p : Status) =>
    let r : Byte := BitVec.ofNat 8 (v.toNat / 2 + 128 * p.c.toNat)
    (r, withZN { p with c := v.getLsbD 0 } r)
  FetchErrorEndsStep
  ∧ HasForms .asl
      [⟨.accumulator, 0x0A, 2, .none⟩, ⟨.zeroPage, 0x06, 5, .none⟩, ⟨.zeroPageX, 0x16, 6, .none⟩,
       ⟨.absolute, 0x0E, 6, .none⟩, ⟨.absoluteX, 0x1E, 7, .none⟩]
  ∧ AccumulatorRule .asl asl ∧ MemoryModifyRule .asl asl
  ∧ HasForms .lsr
      [⟨.accumulator, 0x4A, 2, .none⟩, ⟨.zeroPage, 0x46, 5, .none⟩, ⟨.zeroPageX, 0x56, 6, .none⟩,
       ⟨.absolute, 0x4E, 6, .none⟩, ⟨.absoluteX, 0x5E, 7, .none⟩]
  ∧ AccumulatorRule .lsr lsr ∧ MemoryModifyRule .lsr lsr
  ∧ HasForms .rol
      [⟨.accumulator, 0x2A, 2, .none⟩, ⟨.zeroPage, 0x26, 5, .none⟩, ⟨.zeroPageX, 0x36, 6, .none⟩,
       ⟨.absolute, 0x2E, 6, .none⟩, ⟨.absoluteX, 0x3E, 7, .none⟩]
  ∧ AccumulatorRule .rol rol ∧ MemoryModifyRule .rol rol
  ∧ HasForms .ror
      [⟨.accumulator, 0x6A, 2, .none⟩, ⟨.zeroPage, 0x66, 5, .none⟩, ⟨.zeroPageX, 0x76, 6, .none⟩,
       ⟨.absolute, 0x6E, 6, .none⟩, ⟨.absoluteX, 0x7E, 7, .none⟩]
  ∧ AccumulatorRule .ror ror ∧ MemoryModifyRule .ror ror

/-- INC and DEC of a memory byte: modulo 256, Z and N, C and V untouched (R245, R246). -/
def Obligations.IncDecModifyMemory : Prop :=
  FetchErrorEndsStep
  ∧ HasForms .inc
      [⟨.zeroPage, 0xE6, 5, .none⟩, ⟨.zeroPageX, 0xF6, 6, .none⟩, ⟨.absolute, 0xEE, 6, .none⟩,
       ⟨.absoluteX, 0xFE, 7, .none⟩]
  ∧ MemoryModifyRule .inc (fun v p =>
      let r : Byte := BitVec.ofNat 8 (v.toNat + 1)
      (r, withZN p r))
  ∧ HasForms .dec
      [⟨.zeroPage, 0xC6, 5, .none⟩, ⟨.zeroPageX, 0xD6, 6, .none⟩, ⟨.absolute, 0xCE, 6, .none⟩,
       ⟨.absoluteX, 0xDE, 7, .none⟩]
  ∧ MemoryModifyRule .dec (fun v p =>
      let r : Byte := BitVec.ofNat 8 (v.toNat + 255)
      (r, withZN p r))

/-- INX, INY, DEX, DEY: modulo 256, Z and N, C and V untouched (R247 to R250). -/
def Obligations.IncDecRegisters : Prop :=
  ImpliedRule .inx 0xE8 2 (fun s => { s with x := s.x + 1, p := withZN s.p (s.x + 1) })
  ∧ ImpliedRule .iny 0xC8 2 (fun s => { s with y := s.y + 1, p := withZN s.p (s.y + 1) })
  ∧ ImpliedRule .dex 0xCA 2 (fun s => { s with x := s.x - 1, p := withZN s.p (s.x - 1) })
  ∧ ImpliedRule .dey 0x88 2 (fun s => { s with y := s.y - 1, p := withZN s.p (s.y - 1) })

/-! ## Jumps, subroutines, branches -/

/-- JMP goes to the address the resolver gives and does not read the byte there (R260). -/
def Obligations.JmpJumpsToTheResolvedAddress : Prop :=
  FetchErrorEndsStep
  ∧ HasForms .jmp [⟨.absolute, 0x4C, 3, .none⟩, ⟨.indirect, 0x6C, 5, .none⟩]
  ∧ ∀ o s, (Instr.jmp o).wf = true →
      (∀ r w, operandPlace (.jmp o) o s = .ok r w → ∃ ea, r.loc = .memory ea
        ∧ exec (.jmp o) s = .next { after (.jmp o) s false w.bus s with pc := ea })
      ∧ ∀ e w, operandPlace (.jmp o) o s = .err e w → exec (.jmp o) s = abortsAt s e w

/-- JSR pushes the address of its last byte, high byte first, and jumps (R261). -/
def Obligations.JsrPushesItsLastByteAddress : Prop :=
  FetchErrorEndsStep
  ∧ ∀ (dest : Word) (s : State), HasForm (.jsr dest) 0x20 6 .none
    ∧ exec (.jsr dest) s = .next
        { s with
          pc := dest
          sp := s.sp - 2
          cycles := s.cycles + 6
          iPoll := s.p.i
          bus := { s.bus with ram := pushedRam s.bus.ram s.sp [hi8 (s.pc + 2), lo8 (s.pc + 2)] } }

/-- RTS pulls low then high and adds one (R262). -/
def Obligations.RtsReturnsPastTheCall : Prop :=
  HasForm .rts 0x60 6 .none
  ∧ ∀ s : State, exec .rts s = .next
      { s with
        pc := word (stackByte s.bus.ram (s.sp + 2)) (stackByte s.bus.ram (s.sp + 1)) + 1
        sp := s.sp + 2
        cycles := s.cycles + 6
        iPoll := s.p.i }

/-- The eight branches, each with its flag (R263 to R271), the displacement as the integer of rule R12. -/
def Obligations.BranchesFollowTheirFlag : Prop :=
  FetchErrorEndsStep
  ∧ BranchRule .bpl 0x10 (fun s => !s.p.n) ∧ BranchRule .bmi 0x30 (fun s => s.p.n)
  ∧ BranchRule .bvc 0x50 (fun s => !s.p.v) ∧ BranchRule .bvs 0x70 (fun s => s.p.v)
  ∧ BranchRule .bcc 0x90 (fun s => !s.p.c) ∧ BranchRule .bcs 0xB0 (fun s => s.p.c)
  ∧ BranchRule .bne 0xD0 (fun s => !s.p.z) ∧ BranchRule .beq 0xF0 (fun s => s.p.z)

/-- RTS after JSR: the program goes on after the call, with the stack pointer and every register and
flag as before (R261, R262). -/
def Obligations.SubroutineCallReturns : Prop :=
  ∀ (dest : Word) (s : State), s.wf → ∃ t u, exec (.jsr dest) s = .next t ∧ exec .rts t = .next u
    ∧ u.pc = s.pc + 3 ∧ u.sp = s.sp ∧ u.a = s.a ∧ u.x = s.x ∧ u.y = s.y ∧ u.p = s.p

/-! ## Stack, flags, system -/

/-- The pushed forms of P and the loading of P (R55, R56): bit 5 is 1, bit 4 tells PHP and BRK from an
interrupt, and both are ignored when P is pulled. -/
def Obligations.StatusByteForms : Prop :=
  (∀ (p : Status) (brk : Bool),
    p.byte.toNat = 128 * p.n.toNat + 64 * p.v.toNat + 32 + 8 * p.d.toNat + 4 * p.i.toNat
      + 2 * p.z.toNat + p.c.toNat
    ∧ (p.pushed brk).toNat = p.byte.toNat + 16 * brk.toNat
    ∧ Status.load (p.pushed brk) = p)
  ∧ ∀ v : Byte, Status.load v =
      { c := v.getLsbD 0, z := v.getLsbD 1, i := v.getLsbD 2, d := v.getLsbD 3, v := v.getLsbD 6
        n := v.getLsbD 7 }
    ∧ (Status.load v).byte = (v &&& 0xCF) ||| 0x20

/-- PHA, PHP, PLA, PLP (R280 to R283): SP wraps modulo 256 and no stack access fails (R42); PLP's change
of I reaches the IRQ poll one instruction late. -/
def Obligations.StackInstructionsPushAndPull : Prop :=
  HasForm .pha 0x48 3 .none ∧ HasForm .php 0x08 3 .none
  ∧ HasForm .pla 0x68 4 .none ∧ HasForm .plp 0x28 4 .none
  ∧ ∀ s : State,
    exec .pha s = .next { s with
      pc := s.pc + 1, sp := s.sp - 1, cycles := s.cycles + 3, iPoll := s.p.i
      bus := { s.bus with ram := pushedRam s.bus.ram s.sp [s.a] } }
    ∧ exec .php s = .next { s with
      pc := s.pc + 1, sp := s.sp - 1, cycles := s.cycles + 3, iPoll := s.p.i
      bus := { s.bus with ram := pushedRam s.bus.ram s.sp [s.p.byte ||| 0x30] } }
    ∧ exec .pla s = .next { s with
      pc := s.pc + 1, sp := s.sp + 1, cycles := s.cycles + 4, iPoll := s.p.i
      a := stackByte s.bus.ram (s.sp + 1), p := withZN s.p (stackByte s.bus.ram (s.sp + 1)) }
    ∧ exec .plp s = .next { s with
      pc := s.pc + 1, sp := s.sp + 1, cycles := s.cycles + 4, iPoll := s.p.i
      p := Status.load (stackByte s.bus.ram (s.sp + 1)) }

/-- CLC, SEC, CLI, SEI, CLV, CLD, SED and NOP: the named flag alone; `i_poll` after CLI and SEI holds
the I from before (R284 to R290, R293). -/
def Obligations.FlagInstructionsWriteOneFlag : Prop :=
  ImpliedRule .clc 0x18 2 (fun s => { s with p := { s.p with c := false } })
  ∧ ImpliedRule .sec 0x38 2 (fun s => { s with p := { s.p with c := true } })
  ∧ ImpliedRule .cli 0x58 2 (fun s => { s with p := { s.p with i := false } })
  ∧ ImpliedRule .sei 0x78 2 (fun s => { s with p := { s.p with i := true } })
  ∧ ImpliedRule .clv 0xB8 2 (fun s => { s with p := { s.p with v := false } })
  ∧ ImpliedRule .cld 0xD8 2 (fun s => { s with p := { s.p with d := false } })
  ∧ ImpliedRule .sed 0xF8 2 (fun s => { s with p := { s.p with d := true } })
  ∧ ImpliedRule .nop 0xEA 2 (fun s => s)

/-- BRK (R291): PC + 2 and P with bits 4 and 5 set are pushed, I is set after that, and control goes
through 0xFFFE, whatever I is; a failing vector read leaves the three pushes standing and nothing else
(R170). -/
def Obligations.BrkTakesTheTrap : Prop :=
  HasForm .brk 0x00 7 .none
  ∧ ∀ s : State,
    let pushed := pushedRam s.bus.ram s.sp [hi8 (s.pc + 2), lo8 (s.pc + 2), s.p.byte ||| 0x30]
    let entered : State := { s with
      sp := s.sp - 3
      p := { s.p with i := true }
      bus := { s.bus with ram := pushed } }
    (∀ v w, read16 0xFFFE entered = .ok v w → exec .brk s = .next { entered with
      pc := v, cycles := s.cycles + 7, iPoll := true, bus := w.bus })
    ∧ ∀ e w, read16 0xFFFE entered = .err e w → exec .brk s = abortsAt s e w

/-- RTI pulls P, PC low and PC high, with no adjustment; I takes effect at once (R292). -/
def Obligations.RtiRestoresStatusAndPc : Prop :=
  HasForm .rti 0x40 6 .none
  ∧ ∀ s : State, exec .rti s = .next { s with
      p := Status.load (stackByte s.bus.ram (s.sp + 1))
      pc := word (stackByte s.bus.ram (s.sp + 3)) (stackByte s.bus.ram (s.sp + 2))
      sp := s.sp + 3
      cycles := s.cycles + 6
      iPoll := (Status.load (stackByte s.bus.ram (s.sp + 1))).i }

/-! ## The step, interrupts, reset, errors -/

/-- With no event pending, a step whose bytes at PC decode to an instruction runs that instruction, in
the state with the bus those reads left (R161 to R167); bytes in the RAM leave the state as it is. Without
interrupt inputs and with no reset request no event is pending, so that no NMI and no IRQ is ever taken
(R160, R317): this is said of every state, one with a latch set too, which R317 rules out (log 18). -/
def Obligations.StepRunsDecodedInstruction : Prop :=
  ∀ (s : State) (i : Instr),
    (s.cfg.interruptInputs = .absent → s.resetPending = false → s.quiet)
    ∧ (s.quiet → ∀ bytes w, readBytes i.length s.pc s = .ok bytes w → decode bytes = .ok (i, []) →
        step s = exec i w ∧ w = { s with bus := w.bus } ∧ w.bus.ram = s.bus.ram)
    ∧ (s.quiet → i.wf = true → s.pc.toNat + i.length ≤ 0x2000 →
        (∀ k, k < i.length → (encode i)[k]? = some (s.bus.ram.read ((s.pc.toNat + k) % 0x800))) →
        step s = exec i s)

/-- Reset is taken first; it reads the word at 0xFFFC, clears the counter, sets I, lowers SP by 3 and
writes nothing; a failing vector read changes nothing and the request stays (R352, R353). -/
def Obligations.ResetSequence : Prop :=
  ∀ s : State, s.resetPending = true →
    (∀ v w, read16 0xFFFC s = .ok v w → step s = .next { s with
      pc := v, cycles := 0, p := { s.p with i := true }, sp := s.sp - 3
      resetPending := false, nmiPending := false, iPoll := true, bus := w.bus })
    ∧ (∀ e w, read16 0xFFFC s = .err e w → step s = abortsAt s e w)

/-- Interrupt entry, with interrupt inputs: NMI through 0xFFFA before IRQ through 0xFFFE; PC and P with
bit 4 clear are pushed, I is set, 7 cycles are charged; a failing vector read leaves the pushes standing
and nothing else, so that the same interrupt is recognised again (R319, R320). `StepRunsDecodedInstruction`
says what happens without interrupt inputs. -/
def Obligations.InterruptEntry : Prop :=
  ∀ s : State, s.resetPending = false → s.cfg.interruptInputs = .present →
    let pushed := pushedRam s.bus.ram s.sp [hi8 s.pc, lo8 s.pc, s.p.byte ||| 0x20]
    let entered : State := { s with
      sp := s.sp - 3
      p := { s.p with i := true }
      bus := { s.bus with ram := pushed } }
    (s.nmiPending = true →
      (∀ v w, read16 0xFFFA entered = .ok v w → step s = .next { entered with
        pc := v, cycles := s.cycles + 7, iPoll := true, nmiPending := false, bus := w.bus })
      ∧ ∀ e w, read16 0xFFFA entered = .err e w → step s = abortsAt s e w)
    ∧ (s.nmiPending = false → s.irqLine = true → s.iPoll = false →
      (∀ v w, read16 0xFFFE entered = .ok v w → step s = .next { entered with
        pc := v, cycles := s.cycles + 7, iPoll := true, bus := w.bus })
      ∧ ∀ e w, read16 0xFFFE entered = .err e w → step s = abortsAt s e w)

/-- RTI after a BRK or an interrupt entry brings back P, SP and the pushed PC, and no other register has
changed (R323). -/
def Obligations.TrapReturns : Prop :=
  ∀ s t : State, s.wf →
    (exec .brk s = .next t → ∃ u, exec .rti t = .next u ∧ u.pc = s.pc + 2 ∧ u.p = s.p ∧ u.sp = s.sp
      ∧ u.a = s.a ∧ u.x = s.x ∧ u.y = s.y)
    ∧ ∀ k, enterInterrupt k s = .next t → ∃ u, exec .rti t = .next u ∧ u.pc = s.pc ∧ u.p = s.p
      ∧ u.sp = s.sp ∧ u.a = s.a ∧ u.x = s.x ∧ u.y = s.y

/-- An illegal opcode ends the step with `IllegalOpcode(op, pc0)` and nothing but the opcode's read has
happened (R163); from the RAM, a further step reports the same error again (R173). -/
def Obligations.IllegalOpcodeChangesNothing : Prop :=
  ∀ (s w : State) (op : Byte), s.quiet → memRead s.pc s = .ok op w → op ∈ illegalOpcodes →
    exec (.illegal op) s = .fault (.illegalOpcode op s.pc s)
    ∧ step s = .fault (.illegalOpcode op s.pc { s with bus := w.bus }) ∧ w.bus.ram = s.bus.ram
    ∧ (s.pc.toNat < 0x2000 → step s = .fault (.illegalOpcode op s.pc s))

/-- What an error leaves (R170): the state before the step but for the bus, whose RAM has changed only
where a trap entry pushed before its vector read failed. That the collaborators' named answers are as
before is the model's choice (log 6). -/
def Obligations.ErrorsRollBackTheStep : Prop :=
  ∀ (s : State) (f : Fault), step s = .fault f →
    f.left = { s with bus := f.left.bus }
    ∧ f.left.bus.video = s.bus.video ∧ f.left.bus.io = s.bus.io ∧ f.left.bus.cart = s.bus.cart
    ∧ (s.resetPending = true ∨ s.quiet ∧ (∀ w, fetch s ≠ .ok .brk w) → f.left.bus.ram = s.bus.ram)
    ∧ ∀ k, k < 0x100 ∨ 0x1FF < k → f.left.bus.ram.read k = s.bus.ram.read k

/-- A step never refuses but for an ADC or SBC with D = 1 under `DECIMAL_MODE = refuse` (R172, R231). -/
def Obligations.StepRefusesOnlyDecimal : Prop :=
  ∀ (s : State) (r : Refusal), step s = .refused r →
    r = .decimalMode ∧ s.cfg.decimalMode = .refuse ∧ s.p.d = true

/-! ## Whole-machine rules -/

/-- Every step that completes keeps the invariant: the RAM and the named answers in canonical form (the
model's form, log 3 and log 6), and no interrupt latch set without interrupt inputs (R317). -/
def Obligations.StepKeepsInvariant : Prop :=
  ∀ s t : State, s.wf → step s = .next t → t.wf

/-- The invariant holds at reset, whose OPEN values are the model's (log 1 to log 4). -/
def Obligations.ResetMeetsInvariant : Prop := State.reset.wf

/-- From every state that meets the invariant, every operation of the driver keeps it and so does every
error (R173, R174); a power-on with arguments in canonical form establishes it (R350); hence it holds of
every state the driver can reach. The canonical form is the model's (log 3, log 6), and so is it that
`nmi_edge` and `set_irq` leave the state without interrupt inputs (log 18). -/
def Obligations.ReachableStatesMeetInvariant : Prop :=
  (∀ (op : DriverOp) (s t : State), s.wf → drive op s = .next t → t.wf)
  ∧ (∀ (s : State) (f : Fault), s.wf → step s = .fault f → f.left.wf)
  ∧ (∀ (p : PowerOn) (s : State), p.wf → powerOn p = .ok s → s.wf)
  ∧ ∀ s : State, Reachable s → s.wf

/-- The cycle counter is unobservable: two steps that start from states that differ only in the counter
end alike, the counter apart (R362). -/
def Obligations.CounterDecidesNothing : Prop :=
  ∀ (s : State) (n : Nat),
    mapOutcome (fun t => t.setCycles 0) (step (s.setCycles n))
      = mapOutcome (fun t => t.setCycles 0) (step s)

/-- What a step that completes adds to the counter: reset clears it, an interrupt entry adds 7, an
instruction adds between 2 and 7 (R168, R169, R320, R352). -/
def Obligations.CyclesCharged : Prop :=
  ∀ s t : State, step s = .next t →
    (s.resetPending = true → t.cycles = 0)
    ∧ (s.resetPending = false → s.nmiRecognised = true ∨ s.irqRecognised = true →
        t.cycles = s.cycles + 7)
    ∧ (s.quiet → s.cycles + 2 ≤ t.cycles ∧ t.cycles ≤ s.cycles + 7)

/-- `i_poll` after every step that completes: the I from before after CLI, SEI and PLP, the I at its end
after everything else; an error leaves it (R177). -/
def Obligations.PollFollowsTheMask : Prop :=
  (∀ s t : State, step s = .next t →
    (s.quiet → ∀ i w, fetch s = .ok i w →
      t.iPoll = if i = .cli ∨ i = .sei ∨ i = .plp then s.p.i else t.p.i)
    ∧ (¬s.quiet → t.iPoll = t.p.i))
  ∧ ∀ (s : State) (f : Fault), step s = .fault f → f.left.iPoll = s.iPoll

/-- A change of I by CLI reaches IRQ recognition one instruction late, and an IRQ asserted when SEI
executes with I = 0 is still taken after it (R357). -/
def Obligations.MaskChangesReachThePollLate : Prop :=
  ∀ s t w : State, s.quiet → step s = .next t →
    (fetch s = .ok .cli w → s.p.i = true → t.p.i = false ∧ t.irqRecognised = false)
    ∧ (fetch s = .ok .sei w → s.p.i = false → s.cfg.interruptInputs = .present → s.irqLine = true →
        t.p.i = true ∧ t.irqRecognised = true)

/-- The writers of the flags (R44 to R51): an instruction that completes changes a flag only if the
flag's rule lists it. -/
def Obligations.FlagsChangeOnlyByTheirWriters : Prop :=
  ∀ (i : Instr) (s t : State), exec i s = .next t →
    (t.p.i ≠ s.p.i → i ∈ [.sei, .cli, .brk, .plp, .rti])
    ∧ (t.p.d ≠ s.p.d → i ∈ [.sed, .cld, .plp, .rti])
    ∧ (t.p.v ≠ s.p.v → i ∈ [.clv, .plp, .rti] ∨ ∃ o, i = .adc o ∨ i = .sbc o ∨ i = .bit o)
    ∧ (t.p.c ≠ s.p.c → i ∈ [.clc, .sec, .plp, .rti]
        ∨ ∃ o, i = .adc o ∨ i = .sbc o ∨ i = .cmp o ∨ i = .cpx o ∨ i = .cpy o ∨ i = .asl o
          ∨ i = .lsr o ∨ i = .rol o ∨ i = .ror o)
    ∧ (t.p.z ≠ s.p.z ∨ t.p.n ≠ s.p.n →
        i ∈ [.tax, .tay, .txa, .tya, .tsx, .inx, .iny, .dex, .dey, .pla, .plp, .rti]
        ∨ ∃ o, i = .lda o ∨ i = .ldx o ∨ i = .ldy o ∨ i = .adc o ∨ i = .sbc o ∨ i = .and o
          ∨ i = .ora o ∨ i = .eor o ∨ i = .cmp o ∨ i = .cpx o ∨ i = .cpy o ∨ i = .bit o
          ∨ i = .asl o ∨ i = .lsr o ∨ i = .rol o ∨ i = .ror o ∨ i = .inc o ∨ i = .dec o)

/-- The writers of the registers (R31 to R33, and SP by R40, R41, R211): an instruction that completes
changes A, X, Y or SP only if it is listed, and never the latches `reset_pending` and `nmi_pending` or the
interrupt line (R59). The model's choices: it never changes a collaborator's named answers (log 6) or the
parameters (log 5); a device's own state is the device's (R79, R86). -/
def Obligations.RegistersChangeOnlyByTheirWriters : Prop :=
  ∀ (i : Instr) (s t : State), exec i s = .next t →
    (t.a ≠ s.a → i ∈ [.txa, .tya, .pla, .asl .accumulator, .lsr .accumulator, .rol .accumulator,
        .ror .accumulator]
        ∨ ∃ o, i = .lda o ∨ i = .adc o ∨ i = .sbc o ∨ i = .and o ∨ i = .ora o ∨ i = .eor o)
    ∧ (t.x ≠ s.x → i ∈ [.tax, .tsx, .inx, .dex] ∨ ∃ o, i = .ldx o)
    ∧ (t.y ≠ s.y → i ∈ [.tay, .iny, .dey] ∨ ∃ o, i = .ldy o)
    ∧ (t.sp ≠ s.sp → i ∈ [.txs, .pha, .php, .pla, .plp, .rts, .rti, .brk] ∨ ∃ d, i = .jsr d)
    ∧ t.resetPending = s.resetPending ∧ t.nmiPending = s.nmiPending ∧ t.irqLine = s.irqLine
    ∧ t.bus.video = s.bus.video ∧ t.bus.io = s.bus.io ∧ t.bus.cart = s.bus.cart ∧ t.cfg = s.cfg

/-- Where PC is after an instruction that is no control transfer: past its bytes (R38, R144). -/
def Obligations.PcAdvancesByTheLength : Prop :=
  ∀ (i : Instr) (s t : State), exec i s = .next t →
    t.pc = s.pc + BitVec.ofNat 16 i.length
    ∨ i = .rts ∨ i = .brk ∨ i = .rti ∨ (∃ o, i = .jmp o) ∨ (∃ d, i = .jsr d)
    ∨ ∃ d, i ∈ [.bpl d, .bmi d, .bvc d, .bvs d, .bcc d, .bcs d, .bne d, .beq d]

/-- The RAM after an instruction that stores nothing: every byte reads as before. -/
def Obligations.NonStoringInstructionsKeepRam : Prop :=
  ∀ (i : Instr) (s t : State), exec i s = .next t →
    i ∉ [.pha, .php, .brk] → (∀ d, i ≠ .jsr d) →
    (∀ o, i ≠ .sta o ∧ i ≠ .stx o ∧ i ≠ .sty o ∧ i ≠ .inc o ∧ i ≠ .dec o) →
    (∀ o, i = .asl o ∨ i = .lsr o ∨ i = .rol o ∨ i = .ror o → o = .accumulator) →
    ∀ k, t.bus.ram.read k = s.bus.ram.read k

/-- The RAM after a store or a read-modify-write: every byte but the one at the resolved address reads
as before. -/
def Obligations.StoringInstructionsTouchOneByte : Prop :=
  ∀ (i : Instr) (o : Operand) (s t w : State) (r : Resolved),
    i ∈ [.sta o, .stx o, .sty o, .asl o, .lsr o, .rol o, .ror o, .inc o, .dec o] →
    operandPlace i o s = .ok r w → exec i s = .next t →
    ∀ k, (∀ ea, r.loc = .memory ea → target ea ≠ .ram k) → t.bus.ram.read k = s.bus.ram.read k

/-- The RAM after a push, a call or a trap: every byte but the ones pushed reads as before. -/
def Obligations.PushesTouchOnlyTheStack : Prop :=
  ∀ (s t : State) (k : Nat),
    (exec .pha s = .next t ∨ exec .php s = .next t → k ≠ 0x100 + s.sp.toNat →
      t.bus.ram.read k = s.bus.ram.read k)
    ∧ (∀ d, exec (.jsr d) s = .next t → k ≠ 0x100 + s.sp.toNat → k ≠ 0x100 + (s.sp - 1).toNat →
      t.bus.ram.read k = s.bus.ram.read k)
    ∧ (exec .brk s = .next t → k ≠ 0x100 + s.sp.toNat → k ≠ 0x100 + (s.sp - 1).toNat →
      k ≠ 0x100 + (s.sp - 2).toNat → t.bus.ram.read k = s.bus.ram.read k)

/-- A read-modify-write of a collaborator's register, in any of its forms, makes one read and then one
write of it, and no other call (R85, R171). -/
def Obligations.ReadModifyWriteCallsTwice : Prop :=
  ∀ (i : Instr) (o : Operand) (ea a : Word) (crossed : Bool) (own : Owner) (s t w : State),
    i ∈ [.asl o, .lsr o, .rol o, .ror o, .inc o, .dec o] →
    operandPlace i o s = .ok ⟨.memory ea, crossed⟩ w → target ea = .device own a →
    exec i s = .next t →
    ∃ v, t.bus.calls = s.bus.calls ++ [.read own a, .write own a v]

/-! ## Power-on and the driver -/

/-- Power-on (R350, R64): the stated values, the OPEN ones as given, PC from the reset vector, no other
access; a failing vector read gives the error and no state. -/
def Obligations.PowerOnValues : Prop :=
  ∀ p : PowerOn,
    (∀ v w, read16 0xFFFC p.initial = .ok v w → ∃ s, powerOn p = .ok s ∧ s.pc = v ∧ s.bus = w.bus
      ∧ s.sp = 0xFD ∧ s.p.i = true ∧ s.p.get .b = false ∧ s.p.get .u = true ∧ s.cycles = 0
      ∧ s.resetPending = false ∧ s.nmiPending = false ∧ s.irqLine = false ∧ s.iPoll = true
      ∧ s.a = p.a ∧ s.x = p.x ∧ s.y = p.y ∧ s.p.c = p.c ∧ s.p.z = p.z ∧ s.p.d = p.d ∧ s.p.v = p.v
      ∧ s.p.n = p.n ∧ s.bus.ram = p.ram)
    ∧ ∀ e w, read16 0xFFFC p.initial = .err e w → powerOn p = .error e ∧ e.kind = .read
      ∧ (e.addr = 0xFFFC ∨ e.addr = 0xFFFD)

/-- The driver's operations between steps (R174): `tick` counts down to 0, a reset request and an NMI
edge set their latches, `set_irq` the line, and nothing else changes (R176, R351, R317); `snapshot` shows A,
X, Y, PC, SP, the byte of P with B = 0 and U = 1, and the counter (R62); a saved state put back into a block
with the same collaborators gives the same state (R63). That `nmi_edge` and `set_irq` leave the state
without interrupt inputs, where R317 has no such operation, is the model's choice (log 18). -/
def Obligations.DriverOperations : Prop :=
  ∀ (s : State) (level : Bool),
    tick s = { s with cycles := if 0 < s.cycles then s.cycles - 1 else 0 }
    ∧ requestReset s = { s with resetPending := true }
    ∧ (s.cfg.interruptInputs = .present →
        nmiEdge s = { s with nmiPending := true } ∧ setIrq level s = { s with irqLine := level })
    ∧ (s.cfg.interruptInputs = .absent → nmiEdge s = s ∧ setIrq level s = s)
    ∧ ((snapshot s).a = s.a ∧ (snapshot s).x = s.x ∧ (snapshot s).y = s.y ∧ (snapshot s).pc = s.pc
      ∧ (snapshot s).sp = s.sp ∧ (snapshot s).cycles = s.cycles
      ∧ (snapshot s).p.toNat = 128 * s.p.n.toNat + 64 * s.p.v.toNat + 32 + 8 * s.p.d.toNat
        + 4 * s.p.i.toNat + 2 * s.p.z.toNat + s.p.c.toNat)
    ∧ ∀ t : State, t.cfg = s.cfg → t.bus = { s.bus with ram := t.bus.ram } → restore (save s) t = s
end

