-- ==== Sys2Proof/Laws/State.lean ====
section
/-! SUPPORT. One lemma per field of `State` per update, each true by `rfl`, and the same for the bus, so
that no later proof unfolds a record update. -/

namespace Sys2Proof.Machine

section Fields

variable (s : State)

@[simp] theorem State.setA_a (v : Byte) : (s.setA v).a = v := rfl
@[simp] theorem State.setA_x (v : Byte) : (s.setA v).x = s.x := rfl
@[simp] theorem State.setA_y (v : Byte) : (s.setA v).y = s.y := rfl
@[simp] theorem State.setA_sp (v : Byte) : (s.setA v).sp = s.sp := rfl
@[simp] theorem State.setA_pc (v : Byte) : (s.setA v).pc = s.pc := rfl
@[simp] theorem State.setA_p (v : Byte) : (s.setA v).p = s.p := rfl
@[simp] theorem State.setA_cycles (v : Byte) : (s.setA v).cycles = s.cycles := rfl
@[simp] theorem State.setA_resetPending (v : Byte) : (s.setA v).resetPending = s.resetPending := rfl
@[simp] theorem State.setA_nmiPending (v : Byte) : (s.setA v).nmiPending = s.nmiPending := rfl
@[simp] theorem State.setA_irqLine (v : Byte) : (s.setA v).irqLine = s.irqLine := rfl
@[simp] theorem State.setA_iPoll (v : Byte) : (s.setA v).iPoll = s.iPoll := rfl
@[simp] theorem State.setA_bus (v : Byte) : (s.setA v).bus = s.bus := rfl
@[simp] theorem State.setA_cfg (v : Byte) : (s.setA v).cfg = s.cfg := rfl

@[simp] theorem State.setX_a (v : Byte) : (s.setX v).a = s.a := rfl
@[simp] theorem State.setX_x (v : Byte) : (s.setX v).x = v := rfl
@[simp] theorem State.setX_y (v : Byte) : (s.setX v).y = s.y := rfl
@[simp] theorem State.setX_sp (v : Byte) : (s.setX v).sp = s.sp := rfl
@[simp] theorem State.setX_pc (v : Byte) : (s.setX v).pc = s.pc := rfl
@[simp] theorem State.setX_p (v : Byte) : (s.setX v).p = s.p := rfl
@[simp] theorem State.setX_cycles (v : Byte) : (s.setX v).cycles = s.cycles := rfl
@[simp] theorem State.setX_resetPending (v : Byte) : (s.setX v).resetPending = s.resetPending := rfl
@[simp] theorem State.setX_nmiPending (v : Byte) : (s.setX v).nmiPending = s.nmiPending := rfl
@[simp] theorem State.setX_irqLine (v : Byte) : (s.setX v).irqLine = s.irqLine := rfl
@[simp] theorem State.setX_iPoll (v : Byte) : (s.setX v).iPoll = s.iPoll := rfl
@[simp] theorem State.setX_bus (v : Byte) : (s.setX v).bus = s.bus := rfl
@[simp] theorem State.setX_cfg (v : Byte) : (s.setX v).cfg = s.cfg := rfl

@[simp] theorem State.setY_a (v : Byte) : (s.setY v).a = s.a := rfl
@[simp] theorem State.setY_x (v : Byte) : (s.setY v).x = s.x := rfl
@[simp] theorem State.setY_y (v : Byte) : (s.setY v).y = v := rfl
@[simp] theorem State.setY_sp (v : Byte) : (s.setY v).sp = s.sp := rfl
@[simp] theorem State.setY_pc (v : Byte) : (s.setY v).pc = s.pc := rfl
@[simp] theorem State.setY_p (v : Byte) : (s.setY v).p = s.p := rfl
@[simp] theorem State.setY_cycles (v : Byte) : (s.setY v).cycles = s.cycles := rfl
@[simp] theorem State.setY_resetPending (v : Byte) : (s.setY v).resetPending = s.resetPending := rfl
@[simp] theorem State.setY_nmiPending (v : Byte) : (s.setY v).nmiPending = s.nmiPending := rfl
@[simp] theorem State.setY_irqLine (v : Byte) : (s.setY v).irqLine = s.irqLine := rfl
@[simp] theorem State.setY_iPoll (v : Byte) : (s.setY v).iPoll = s.iPoll := rfl
@[simp] theorem State.setY_bus (v : Byte) : (s.setY v).bus = s.bus := rfl
@[simp] theorem State.setY_cfg (v : Byte) : (s.setY v).cfg = s.cfg := rfl

@[simp] theorem State.setSp_a (v : Byte) : (s.setSp v).a = s.a := rfl
@[simp] theorem State.setSp_x (v : Byte) : (s.setSp v).x = s.x := rfl
@[simp] theorem State.setSp_y (v : Byte) : (s.setSp v).y = s.y := rfl
@[simp] theorem State.setSp_sp (v : Byte) : (s.setSp v).sp = v := rfl
@[simp] theorem State.setSp_pc (v : Byte) : (s.setSp v).pc = s.pc := rfl
@[simp] theorem State.setSp_p (v : Byte) : (s.setSp v).p = s.p := rfl
@[simp] theorem State.setSp_cycles (v : Byte) : (s.setSp v).cycles = s.cycles := rfl
@[simp] theorem State.setSp_resetPending (v : Byte) : (s.setSp v).resetPending = s.resetPending := rfl
@[simp] theorem State.setSp_nmiPending (v : Byte) : (s.setSp v).nmiPending = s.nmiPending := rfl
@[simp] theorem State.setSp_irqLine (v : Byte) : (s.setSp v).irqLine = s.irqLine := rfl
@[simp] theorem State.setSp_iPoll (v : Byte) : (s.setSp v).iPoll = s.iPoll := rfl
@[simp] theorem State.setSp_bus (v : Byte) : (s.setSp v).bus = s.bus := rfl
@[simp] theorem State.setSp_cfg (v : Byte) : (s.setSp v).cfg = s.cfg := rfl

@[simp] theorem State.setPc_a (v : Word) : (s.setPc v).a = s.a := rfl
@[simp] theorem State.setPc_x (v : Word) : (s.setPc v).x = s.x := rfl
@[simp] theorem State.setPc_y (v : Word) : (s.setPc v).y = s.y := rfl
@[simp] theorem State.setPc_sp (v : Word) : (s.setPc v).sp = s.sp := rfl
@[simp] theorem State.setPc_pc (v : Word) : (s.setPc v).pc = v := rfl
@[simp] theorem State.setPc_p (v : Word) : (s.setPc v).p = s.p := rfl
@[simp] theorem State.setPc_cycles (v : Word) : (s.setPc v).cycles = s.cycles := rfl
@[simp] theorem State.setPc_resetPending (v : Word) : (s.setPc v).resetPending = s.resetPending := rfl
@[simp] theorem State.setPc_nmiPending (v : Word) : (s.setPc v).nmiPending = s.nmiPending := rfl
@[simp] theorem State.setPc_irqLine (v : Word) : (s.setPc v).irqLine = s.irqLine := rfl
@[simp] theorem State.setPc_iPoll (v : Word) : (s.setPc v).iPoll = s.iPoll := rfl
@[simp] theorem State.setPc_bus (v : Word) : (s.setPc v).bus = s.bus := rfl
@[simp] theorem State.setPc_cfg (v : Word) : (s.setPc v).cfg = s.cfg := rfl

@[simp] theorem State.setP_a (v : Status) : (s.setP v).a = s.a := rfl
@[simp] theorem State.setP_x (v : Status) : (s.setP v).x = s.x := rfl
@[simp] theorem State.setP_y (v : Status) : (s.setP v).y = s.y := rfl
@[simp] theorem State.setP_sp (v : Status) : (s.setP v).sp = s.sp := rfl
@[simp] theorem State.setP_pc (v : Status) : (s.setP v).pc = s.pc := rfl
@[simp] theorem State.setP_p (v : Status) : (s.setP v).p = v := rfl
@[simp] theorem State.setP_cycles (v : Status) : (s.setP v).cycles = s.cycles := rfl
@[simp] theorem State.setP_resetPending (v : Status) : (s.setP v).resetPending = s.resetPending := rfl
@[simp] theorem State.setP_nmiPending (v : Status) : (s.setP v).nmiPending = s.nmiPending := rfl
@[simp] theorem State.setP_irqLine (v : Status) : (s.setP v).irqLine = s.irqLine := rfl
@[simp] theorem State.setP_iPoll (v : Status) : (s.setP v).iPoll = s.iPoll := rfl
@[simp] theorem State.setP_bus (v : Status) : (s.setP v).bus = s.bus := rfl
@[simp] theorem State.setP_cfg (v : Status) : (s.setP v).cfg = s.cfg := rfl

@[simp] theorem State.setCycles_a (v : Nat) : (s.setCycles v).a = s.a := rfl
@[simp] theorem State.setCycles_x (v : Nat) : (s.setCycles v).x = s.x := rfl
@[simp] theorem State.setCycles_y (v : Nat) : (s.setCycles v).y = s.y := rfl
@[simp] theorem State.setCycles_sp (v : Nat) : (s.setCycles v).sp = s.sp := rfl
@[simp] theorem State.setCycles_pc (v : Nat) : (s.setCycles v).pc = s.pc := rfl
@[simp] theorem State.setCycles_p (v : Nat) : (s.setCycles v).p = s.p := rfl
@[simp] theorem State.setCycles_cycles (v : Nat) : (s.setCycles v).cycles = v := rfl
@[simp] theorem State.setCycles_resetPending (v : Nat) : (s.setCycles v).resetPending = s.resetPending := rfl
@[simp] theorem State.setCycles_nmiPending (v : Nat) : (s.setCycles v).nmiPending = s.nmiPending := rfl
@[simp] theorem State.setCycles_irqLine (v : Nat) : (s.setCycles v).irqLine = s.irqLine := rfl
@[simp] theorem State.setCycles_iPoll (v : Nat) : (s.setCycles v).iPoll = s.iPoll := rfl
@[simp] theorem State.setCycles_bus (v : Nat) : (s.setCycles v).bus = s.bus := rfl
@[simp] theorem State.setCycles_cfg (v : Nat) : (s.setCycles v).cfg = s.cfg := rfl

@[simp] theorem State.setResetPending_a (v : Bool) : (s.setResetPending v).a = s.a := rfl
@[simp] theorem State.setResetPending_x (v : Bool) : (s.setResetPending v).x = s.x := rfl
@[simp] theorem State.setResetPending_y (v : Bool) : (s.setResetPending v).y = s.y := rfl
@[simp] theorem State.setResetPending_sp (v : Bool) : (s.setResetPending v).sp = s.sp := rfl
@[simp] theorem State.setResetPending_pc (v : Bool) : (s.setResetPending v).pc = s.pc := rfl
@[simp] theorem State.setResetPending_p (v : Bool) : (s.setResetPending v).p = s.p := rfl
@[simp] theorem State.setResetPending_cycles (v : Bool) : (s.setResetPending v).cycles = s.cycles := rfl
@[simp] theorem State.setResetPending_resetPending (v : Bool) : (s.setResetPending v).resetPending = v := rfl
@[simp] theorem State.setResetPending_nmiPending (v : Bool) : (s.setResetPending v).nmiPending = s.nmiPending := rfl
@[simp] theorem State.setResetPending_irqLine (v : Bool) : (s.setResetPending v).irqLine = s.irqLine := rfl
@[simp] theorem State.setResetPending_iPoll (v : Bool) : (s.setResetPending v).iPoll = s.iPoll := rfl
@[simp] theorem State.setResetPending_bus (v : Bool) : (s.setResetPending v).bus = s.bus := rfl
@[simp] theorem State.setResetPending_cfg (v : Bool) : (s.setResetPending v).cfg = s.cfg := rfl

@[simp] theorem State.setNmiPending_a (v : Bool) : (s.setNmiPending v).a = s.a := rfl
@[simp] theorem State.setNmiPending_x (v : Bool) : (s.setNmiPending v).x = s.x := rfl
@[simp] theorem State.setNmiPending_y (v : Bool) : (s.setNmiPending v).y = s.y := rfl
@[simp] theorem State.setNmiPending_sp (v : Bool) : (s.setNmiPending v).sp = s.sp := rfl
@[simp] theorem State.setNmiPending_pc (v : Bool) : (s.setNmiPending v).pc = s.pc := rfl
@[simp] theorem State.setNmiPending_p (v : Bool) : (s.setNmiPending v).p = s.p := rfl
@[simp] theorem State.setNmiPending_cycles (v : Bool) : (s.setNmiPending v).cycles = s.cycles := rfl
@[simp] theorem State.setNmiPending_resetPending (v : Bool) : (s.setNmiPending v).resetPending = s.resetPending := rfl
@[simp] theorem State.setNmiPending_nmiPending (v : Bool) : (s.setNmiPending v).nmiPending = v := rfl
@[simp] theorem State.setNmiPending_irqLine (v : Bool) : (s.setNmiPending v).irqLine = s.irqLine := rfl
@[simp] theorem State.setNmiPending_iPoll (v : Bool) : (s.setNmiPending v).iPoll = s.iPoll := rfl
@[simp] theorem State.setNmiPending_bus (v : Bool) : (s.setNmiPending v).bus = s.bus := rfl
@[simp] theorem State.setNmiPending_cfg (v : Bool) : (s.setNmiPending v).cfg = s.cfg := rfl

@[simp] theorem State.setIrqLine_a (v : Bool) : (s.setIrqLine v).a = s.a := rfl
@[simp] theorem State.setIrqLine_x (v : Bool) : (s.setIrqLine v).x = s.x := rfl
@[simp] theorem State.setIrqLine_y (v : Bool) : (s.setIrqLine v).y = s.y := rfl
@[simp] theorem State.setIrqLine_sp (v : Bool) : (s.setIrqLine v).sp = s.sp := rfl
@[simp] theorem State.setIrqLine_pc (v : Bool) : (s.setIrqLine v).pc = s.pc := rfl
@[simp] theorem State.setIrqLine_p (v : Bool) : (s.setIrqLine v).p = s.p := rfl
@[simp] theorem State.setIrqLine_cycles (v : Bool) : (s.setIrqLine v).cycles = s.cycles := rfl
@[simp] theorem State.setIrqLine_resetPending (v : Bool) : (s.setIrqLine v).resetPending = s.resetPending := rfl
@[simp] theorem State.setIrqLine_nmiPending (v : Bool) : (s.setIrqLine v).nmiPending = s.nmiPending := rfl
@[simp] theorem State.setIrqLine_irqLine (v : Bool) : (s.setIrqLine v).irqLine = v := rfl
@[simp] theorem State.setIrqLine_iPoll (v : Bool) : (s.setIrqLine v).iPoll = s.iPoll := rfl
@[simp] theorem State.setIrqLine_bus (v : Bool) : (s.setIrqLine v).bus = s.bus := rfl
@[simp] theorem State.setIrqLine_cfg (v : Bool) : (s.setIrqLine v).cfg = s.cfg := rfl

@[simp] theorem State.setIPoll_a (v : Bool) : (s.setIPoll v).a = s.a := rfl
@[simp] theorem State.setIPoll_x (v : Bool) : (s.setIPoll v).x = s.x := rfl
@[simp] theorem State.setIPoll_y (v : Bool) : (s.setIPoll v).y = s.y := rfl
@[simp] theorem State.setIPoll_sp (v : Bool) : (s.setIPoll v).sp = s.sp := rfl
@[simp] theorem State.setIPoll_pc (v : Bool) : (s.setIPoll v).pc = s.pc := rfl
@[simp] theorem State.setIPoll_p (v : Bool) : (s.setIPoll v).p = s.p := rfl
@[simp] theorem State.setIPoll_cycles (v : Bool) : (s.setIPoll v).cycles = s.cycles := rfl
@[simp] theorem State.setIPoll_resetPending (v : Bool) : (s.setIPoll v).resetPending = s.resetPending := rfl
@[simp] theorem State.setIPoll_nmiPending (v : Bool) : (s.setIPoll v).nmiPending = s.nmiPending := rfl
@[simp] theorem State.setIPoll_irqLine (v : Bool) : (s.setIPoll v).irqLine = s.irqLine := rfl
@[simp] theorem State.setIPoll_iPoll (v : Bool) : (s.setIPoll v).iPoll = v := rfl
@[simp] theorem State.setIPoll_bus (v : Bool) : (s.setIPoll v).bus = s.bus := rfl
@[simp] theorem State.setIPoll_cfg (v : Bool) : (s.setIPoll v).cfg = s.cfg := rfl

@[simp] theorem State.setBus_a (v : Bus) : (s.setBus v).a = s.a := rfl
@[simp] theorem State.setBus_x (v : Bus) : (s.setBus v).x = s.x := rfl
@[simp] theorem State.setBus_y (v : Bus) : (s.setBus v).y = s.y := rfl
@[simp] theorem State.setBus_sp (v : Bus) : (s.setBus v).sp = s.sp := rfl
@[simp] theorem State.setBus_pc (v : Bus) : (s.setBus v).pc = s.pc := rfl
@[simp] theorem State.setBus_p (v : Bus) : (s.setBus v).p = s.p := rfl
@[simp] theorem State.setBus_cycles (v : Bus) : (s.setBus v).cycles = s.cycles := rfl
@[simp] theorem State.setBus_resetPending (v : Bus) : (s.setBus v).resetPending = s.resetPending := rfl
@[simp] theorem State.setBus_nmiPending (v : Bus) : (s.setBus v).nmiPending = s.nmiPending := rfl
@[simp] theorem State.setBus_irqLine (v : Bus) : (s.setBus v).irqLine = s.irqLine := rfl
@[simp] theorem State.setBus_iPoll (v : Bus) : (s.setBus v).iPoll = s.iPoll := rfl
@[simp] theorem State.setBus_bus (v : Bus) : (s.setBus v).bus = v := rfl
@[simp] theorem State.setBus_cfg (v : Bus) : (s.setBus v).cfg = s.cfg := rfl

end Fields

section Buses

variable (b : Bus) (m : Memory) (c : Call)

@[simp] theorem Bus.setRam_ram : (b.setRam m).ram = m := rfl
@[simp] theorem Bus.setRam_video : (b.setRam m).video = b.video := rfl
@[simp] theorem Bus.setRam_io : (b.setRam m).io = b.io := rfl
@[simp] theorem Bus.setRam_cart : (b.setRam m).cart = b.cart := rfl
@[simp] theorem Bus.setRam_inputs : (b.setRam m).inputs = b.inputs := rfl
@[simp] theorem Bus.setRam_drawn : (b.setRam m).drawn = b.drawn := rfl
@[simp] theorem Bus.setRam_calls : (b.setRam m).calls = b.calls := rfl

@[simp] theorem Bus.record_ram : (b.record c).ram = b.ram := rfl
@[simp] theorem Bus.record_video : (b.record c).video = b.video := rfl
@[simp] theorem Bus.record_io : (b.record c).io = b.io := rfl
@[simp] theorem Bus.record_cart : (b.record c).cart = b.cart := rfl
@[simp] theorem Bus.record_inputs : (b.record c).inputs = b.inputs := rfl
@[simp] theorem Bus.record_drawn : (b.record c).drawn = b.drawn := rfl
@[simp] theorem Bus.record_calls : (b.record c).calls = b.calls ++ [c] := rfl

@[simp] theorem Bus.afterDraw_ram : b.afterDraw.ram = b.ram := rfl
@[simp] theorem Bus.afterDraw_video : b.afterDraw.video = b.video := rfl
@[simp] theorem Bus.afterDraw_io : b.afterDraw.io = b.io := rfl
@[simp] theorem Bus.afterDraw_cart : b.afterDraw.cart = b.cart := rfl
@[simp] theorem Bus.afterDraw_inputs : b.afterDraw.inputs = b.inputs.tail := rfl
@[simp] theorem Bus.afterDraw_drawn : b.afterDraw.drawn = b.drawn + 1 := rfl
@[simp] theorem Bus.afterDraw_calls : b.afterDraw.calls = b.calls := rfl

/-- A draw is the head of the tape, and past its end the two free values (R78). -/
theorem Bus.draw_of_cons {d : Draw} {t : List Draw} (h : b.inputs = d :: t) : b.draw = d := by
  simp [Bus.draw, h]
theorem Bus.draw_of_nil (h : b.inputs = []) :
    b.draw = { owned := Config.freeOwned b.drawn, byte := Config.freeByte b.drawn } := by
  simp [Bus.draw, h]

@[simp] theorem Bus.setRam_ram_self : b.setRam b.ram = b := rfl
@[simp] theorem Bus.setRam_setRam (m' : Memory) : (b.setRam m).setRam m' = b.setRam m' := rfl

end Buses

section Rewrites

variable (s : State)

@[simp] theorem State.setBus_setBus (b b' : Bus) : (s.setBus b).setBus b' = s.setBus b' := rfl
@[simp] theorem State.setBus_self : s.setBus s.bus = s := rfl
@[simp] theorem State.setPc_self : s.setPc s.pc = s := rfl
@[simp] theorem State.advance_eq (n : Nat) : s.advance n = s.setPc (s.pc + BitVec.ofNat 16 n) := rfl
@[simp] theorem State.jump_eq (w : Word) : s.jump w = s.setPc w := rfl
@[simp] theorem State.abort_eq (w : State) : s.abort w = s.setBus w.bus := rfl
@[simp] theorem State.getReg_a : s.getReg .a = s.a := rfl
@[simp] theorem State.getReg_x : s.getReg .x = s.x := rfl
@[simp] theorem State.getReg_y : s.getReg .y = s.y := rfl
@[simp] theorem State.setReg_a (v : Byte) : s.setReg .a v = s.setA v := rfl
@[simp] theorem State.setReg_x (v : Byte) : s.setReg .x v = s.setX v := rfl
@[simp] theorem State.setReg_y (v : Byte) : s.setReg .y v = s.setY v := rfl

end Rewrites

end Sys2Proof.Machine
end

