-- ==== Sys2Proof/Laws/Memory.lean ====
section
/-! SUPPORT. The laws of the RAM list: a read after a write, and that every memory operation keeps the
canonical form (`Memory.wf`). -/

namespace Sys2Proof.Machine

/-- Every index of the list lies above `k`. -/
theorem Memory.wf_head_lt {k : Nat} {b : Byte} {t : Memory} (h : Memory.wf ((k, b) :: t)) :
    ∀ c ∈ t, k < c.1 := (List.pairwise_cons.mp h.1).1

theorem Memory.wf_tail {c : Host.Cell} {t : Memory} (h : Memory.wf (c :: t)) : Memory.wf t :=
  ⟨(List.pairwise_cons.mp h.1).2, fun d hd => h.2 d (List.mem_cons_of_mem _ hd)⟩

theorem Memory.wf_nil : Memory.wf [] := by decide

theorem Memory.read_of_not_listed {m : Memory} {i : Nat} (h : ∀ c ∈ m, c.1 ≠ i) :
    Memory.read m i = unlistedByte := by
  induction m with
  | nil => rfl
  | cons c t ih =>
    obtain ⟨k, b⟩ := c
    have hk : k ≠ i := h (k, b) (by simp)
    simp only [Memory.read, if_neg hk]
    exact ih fun c hc => h c (List.mem_cons_of_mem _ hc)

theorem Memory.mem_erase {m : Memory} {i : Nat} {c : Host.Cell} (h : c ∈ Memory.erase m i) : c ∈ m := by
  induction m with
  | nil => exact h
  | cons d t ih =>
    obtain ⟨k, b⟩ := d
    simp only [Memory.erase] at h
    split at h
    · exact List.mem_cons_of_mem _ h
    · rcases List.mem_cons.mp h with rfl | h
      · simp
      · exact List.mem_cons_of_mem _ (ih h)

theorem Memory.mem_insert {m : Memory} {i : Nat} {b : Byte} {c : Host.Cell}
    (h : c ∈ Memory.insert m i b) : c = (i, b) ∨ c ∈ m := by
  induction m with
  | nil => exact .inl (by simpa [Memory.insert] using h)
  | cons d t ih =>
    obtain ⟨k, v⟩ := d
    simp only [Memory.insert] at h
    split at h
    · rcases List.mem_cons.mp h with rfl | h
      · exact .inl rfl
      · exact .inr h
    · split at h
      · rcases List.mem_cons.mp h with rfl | h
        · exact .inl rfl
        · exact .inr (List.mem_cons_of_mem _ h)
      · rcases List.mem_cons.mp h with rfl | h
        · exact .inr (by simp)
        · rcases ih h with rfl | h
          · exact .inl rfl
          · exact .inr (List.mem_cons_of_mem _ h)

theorem Memory.erase_wf {m : Memory} (h : Memory.wf m) (i : Nat) : Memory.wf (Memory.erase m i) := by
  induction m with
  | nil => exact h
  | cons c t ih =>
    obtain ⟨k, v⟩ := c
    simp only [Memory.erase]
    split
    · exact Memory.wf_tail h
    · have ht := ih (Memory.wf_tail h)
      refine ⟨List.pairwise_cons.mpr ⟨fun d hd => ?_, ht.1⟩, fun d hd => ?_⟩
      · exact Memory.wf_head_lt h d (Memory.mem_erase hd)
      · rcases List.mem_cons.mp hd with rfl | hd
        · exact h.2 _ (by simp)
        · exact ht.2 d hd

theorem Memory.insert_wf {m : Memory} (h : Memory.wf m) {i : Nat} {b : Byte} (hi : i < 2048)
    (hb : b ≠ unlistedByte) : Memory.wf (Memory.insert m i b) := by
  induction m with
  | nil => exact ⟨by simp [Memory.insert], by simp [Memory.insert, hi, hb]⟩
  | cons c t ih =>
    obtain ⟨k, v⟩ := c
    simp only [Memory.insert]
    split
    · rename_i hik
      refine ⟨List.pairwise_cons.mpr ⟨fun d hd => ?_, h.1⟩, fun d hd => ?_⟩
      · rcases List.mem_cons.mp hd with rfl | hd
        · exact hik
        · exact lt_trans hik (Memory.wf_head_lt h d hd)
      · rcases List.mem_cons.mp hd with rfl | hd
        · exact ⟨hi, hb⟩
        · exact h.2 d hd
    · split
      · rename_i hik
        subst hik
        refine ⟨List.pairwise_cons.mpr ⟨Memory.wf_head_lt h, (Memory.wf_tail h).1⟩, fun d hd => ?_⟩
        rcases List.mem_cons.mp hd with rfl | hd
        · exact ⟨hi, hb⟩
        · exact (Memory.wf_tail h).2 d hd
      · rename_i h1 h2
        have hki : k < i := by omega
        have ht := ih (Memory.wf_tail h)
        refine ⟨List.pairwise_cons.mpr ⟨fun d hd => ?_, ht.1⟩, fun d hd => ?_⟩
        · rcases Memory.mem_insert hd with rfl | hd
          · exact hki
          · exact Memory.wf_head_lt h d hd
        · rcases List.mem_cons.mp hd with rfl | hd
          · exact h.2 _ (by simp)
          · exact ht.2 d hd

/-- Storing a byte at an index of the RAM keeps the canonical form. -/
theorem Memory.write_wf {m : Memory} (h : Memory.wf m) {i : Nat} (hi : i < 2048) (b : Byte) :
    Memory.wf (Memory.write m i b) := by
  unfold Memory.write
  split
  · exact Memory.erase_wf h i
  · rename_i hb
    exact Memory.insert_wf h hi hb

theorem Memory.read_erase_ne (m : Memory) {i j : Nat} (hij : j ≠ i) :
    Memory.read (Memory.erase m i) j = Memory.read m j := by
  induction m with
  | nil => rfl
  | cons c t ih =>
    obtain ⟨k, v⟩ := c
    simp only [Memory.erase]
    split
    · rename_i hki
      have : k ≠ j := by omega
      simp [Memory.read, this]
    · simp only [Memory.read, ih]

theorem Memory.read_erase_self {m : Memory} (h : Memory.wf m) (i : Nat) :
    Memory.read (Memory.erase m i) i = unlistedByte := by
  induction m with
  | nil => rfl
  | cons c t ih =>
    obtain ⟨k, v⟩ := c
    simp only [Memory.erase]
    split
    · rename_i hki
      subst hki
      exact Memory.read_of_not_listed fun c hc => by
        have := Memory.wf_head_lt h c hc
        omega
    · rename_i hki
      simp only [Memory.read, if_neg hki]
      exact ih (Memory.wf_tail h)

theorem Memory.read_insert (m : Memory) (i j : Nat) (b : Byte) :
    Memory.read (Memory.insert m i b) j = if j = i then b else Memory.read m j := by
  induction m with
  | nil => simp [Memory.insert, Memory.read, eq_comm]
  | cons c t ih =>
    obtain ⟨k, v⟩ := c
    simp only [Memory.insert]
    split
    · simp [Memory.read, eq_comm]
    · split
      · rename_i h
        subst h
        by_cases hj : j = i
        · simp [Memory.read, hj]
        · simp [Memory.read, hj, Ne.symm hj]
      · rename_i h1 h2
        simp only [Memory.read, ih]
        by_cases hk : k = j
        · have : j ≠ i := by omega
          simp [hk, this]
        · simp [hk]

/-- A byte other than the one written reads as before. -/
theorem Memory.read_write_ne (m : Memory) {i j : Nat} (hij : j ≠ i) (b : Byte) :
    Memory.read (Memory.write m i b) j = Memory.read m j := by
  unfold Memory.write
  split
  · exact Memory.read_erase_ne m hij
  · simp [Memory.read_insert, hij]

/-- The byte written is read back. -/
theorem Memory.read_write_self {m : Memory} (h : Memory.wf m) (i : Nat) (b : Byte) :
    Memory.read (Memory.write m i b) i = b := by
  unfold Memory.write
  split
  · rename_i hb
    rw [Memory.read_erase_self h, hb]
  · simp [Memory.read_insert]

/-- A read after a write. -/
theorem Memory.read_write {m : Memory} (h : Memory.wf m) (i j : Nat) (b : Byte) :
    Memory.read (Memory.write m i b) j = if j = i then b else Memory.read m j := by
  split
  · rename_i hj
    rw [hj, Memory.read_write_self h]
  · rename_i hj
    exact Memory.read_write_ne m hj b

end Sys2Proof.Machine
end

