-- ==== Sys2Proof/Laws/Bus.lean ====
section
/-! SUPPORT. What a bus access can do: the RAM window, the forwarding to collaborators, and the frame of
`memRead` and `memWrite`. -/

namespace Sys2Proof.Machine

/-! ## Sequencing -/

@[simp] theorem Access.bind_ok {α β : Type} (v : α) (s : State) (f : α → State → Access β) :
    (Access.ok v s).bind f = f v s := rfl

@[simp] theorem Access.bind_err {α β : Type} (e : BusError) (s : State) (f : α → State → Access β) :
    (Access.err e s : Access α).bind f = .err e s := rfl

/-- A sequence that completes: both pieces complete. -/
theorem Access.bind_eq_ok {α β : Type} {r : Access α} {f : α → State → Access β} {v : β} {w : State}
    (h : r.bind f = .ok v w) : ∃ u s, r = .ok u s ∧ f u s = .ok v w := by
  cases r with
  | ok u s => exact ⟨u, s, rfl, h⟩
  | err e s => exact absurd h (by simp)

/-- A sequence that fails: the first piece fails, or it completes and the second fails. -/
theorem Access.bind_eq_err {α β : Type} {r : Access α} {f : α → State → Access β} {e : BusError}
    {w : State} (h : r.bind f = .err e w) :
    r = .err e w ∨ ∃ u s, r = .ok u s ∧ f u s = .err e w := by
  cases r with
  | ok u s => exact .inr ⟨u, s, rfl, h⟩
  | err e' s => exact .inl (by simpa using h)

/-! ## The decode policy -/

/-- An address below 0x2000 is in the RAM window. -/
theorem target_ram {addr : Word} (h : addr < 0x2000) :
    target addr = .ram (addr &&& 0x07FF).toNat := if_pos h

/-- The index of the RAM is below 2048 whatever the address (R74). -/
theorem ramIndex_lt (addr : Word) : (addr &&& 0x07FF).toNat < 2048 := by
  have h := Nat.and_le_right (n := addr.toNat) (m := 0x07FF)
  rw [BitVec.toNat_and]
  exact Nat.lt_of_le_of_lt h (by decide)

/-- Any index the decode gives is below 2048. -/
theorem target_ram_lt {addr : Word} {i : Nat} (h : target addr = .ram i) : i < 2048 := by
  unfold target at h
  split at h
  · obtain rfl := Target.ram.inj h
    exact ramIndex_lt addr
  · split at h
    · cases h
    · split at h <;> cases h

/-! ## Collaborators -/

/-- What no access changes: the collaborators, registered and named answers alike. -/
def Bus.SameDevices (b b' : Bus) : Prop := b'.video = b.video ∧ b'.io = b.io ∧ b'.cart = b.cart

theorem Bus.SameDevices.refl (b : Bus) : b.SameDevices b := ⟨rfl, rfl, rfl⟩

theorem Bus.SameDevices.trans {b b' b'' : Bus} (h : b.SameDevices b') (h' : b'.SameDevices b'') :
    b.SameDevices b'' :=
  ⟨h'.1.trans h.1, h'.2.1.trans h.2.1, h'.2.2.trans h.2.2⟩

theorem deviceRead_ram (o : Owner) (a : Word) (b : Bus) : (deviceRead o a b).2.ram = b.ram := by
  unfold deviceRead
  split
  · dsimp only
    split <;> simp
  · rfl

theorem deviceRead_devices (o : Owner) (a : Word) (b : Bus) :
    b.SameDevices (deviceRead o a b).2 := by
  unfold deviceRead
  split
  · dsimp only
    split <;> exact ⟨rfl, rfl, rfl⟩
  · exact Bus.SameDevices.refl b

theorem deviceWrite_ram (o : Owner) (a : Word) (v : Byte) (b : Bus) :
    (deviceWrite o a v b).2.ram = b.ram := by
  unfold deviceWrite
  split <;> rfl

theorem deviceWrite_devices (o : Owner) (a : Word) (v : Byte) (b : Bus) :
    b.SameDevices (deviceWrite o a v b).2 := by
  unfold deviceWrite
  split <;> exact ⟨rfl, rfl, rfl⟩

/-- An unregistered collaborator answers no read and no write, and is not called. -/
theorem deviceRead_unregistered {o : Owner} {b : Bus} (h : (b.collaborator o).registered = false)
    (a : Word) : deviceRead o a b = (none, b) := by
  simp [deviceRead, h]

theorem deviceWrite_unregistered {o : Owner} {b : Bus} (h : (b.collaborator o).registered = false)
    (a : Word) (v : Byte) : deviceWrite o a v b = (false, b) := by
  simp [deviceWrite, h]

/-- A registered collaborator gives a named answer as it is named. -/
theorem deviceRead_named {o : Owner} {b : Bus} {a : Word} {v : Byte}
    (h : (b.collaborator o).registered = true)
    (hn : namedAnswer (b.collaborator o).named a.toNat = some (.byte v)) :
    deviceRead o a b = (some v, b.record (.read o a)) := by
  simp [deviceRead, h, hn]

theorem deviceRead_noOwner {o : Owner} {b : Bus} {a : Word}
    (h : (b.collaborator o).registered = true)
    (hn : namedAnswer (b.collaborator o).named a.toNat = some .noOwner) :
    deviceRead o a b = (none, b.record (.read o a)) := by
  simp [deviceRead, h, hn]

/-! ## The bus -/

theorem busRead_ram (addr : Word) (b : Bus) : (busRead addr b).2.ram = b.ram := by
  unfold busRead
  split
  · rfl
  · exact deviceRead_ram ..

theorem busRead_devices (addr : Word) (b : Bus) : b.SameDevices (busRead addr b).2 := by
  unfold busRead
  split
  · exact Bus.SameDevices.refl b
  · exact deviceRead_devices ..

theorem busWrite_devices (addr : Word) (v : Byte) (b : Bus) :
    b.SameDevices (busWrite addr v b).2 := by
  unfold busWrite
  split
  · exact Bus.SameDevices.refl b
  · exact deviceWrite_devices ..

/-- A write changes the RAM at the index the address decodes to, or not at all. -/
theorem busWrite_ram (addr : Word) (v : Byte) (b : Bus) :
    (∃ i, target addr = .ram i ∧ (busWrite addr v b).2.ram = b.ram.write i v)
      ∨ (∃ o a, target addr = .device o a) ∧ (busWrite addr v b).2.ram = b.ram := by
  unfold busWrite
  cases h : target addr with
  | ram i => exact .inl ⟨i, rfl, rfl⟩
  | device o a => exact .inr ⟨⟨o, a, rfl⟩, deviceWrite_ram ..⟩

/-- A write that fails changes no byte of the RAM (R81). -/
theorem busWrite_ram_of_fails {addr : Word} {v : Byte} {b : Bus} (h : (busWrite addr v b).1 = false) :
    (busWrite addr v b).2.ram = b.ram := by
  unfold busWrite at h ⊢
  split
  · rename_i i hi
    simp [hi] at h
  · exact deviceWrite_ram ..

/-- Every bus access keeps the canonical form of the RAM. -/
theorem busWrite_wf {addr : Word} {v : Byte} {b : Bus} (h : Memory.wf b.ram) :
    Memory.wf (busWrite addr v b).2.ram := by
  rcases busWrite_ram addr v b with ⟨i, hi, hr⟩ | ⟨-, hr⟩
  · rw [hr]
    exact Memory.write_wf h (target_ram_lt hi) v
  · rwa [hr]

/-! ## `MemRead` and `MemWrite` -/

/-- A read that completes: its value and bus are the bus's, and nothing else changes. -/
theorem memRead_eq_ok {addr : Word} {s w : State} {v : Byte} (h : memRead addr s = .ok v w) :
    (busRead addr s.bus).1 = some v ∧ w = s.setBus (busRead addr s.bus).2 := by
  unfold memRead at h
  split at h
  · rename_i u b hb
    obtain ⟨rfl, rfl⟩ := Access.ok.inj h
    rw [hb]
    exact ⟨rfl, rfl⟩
  · cases h

/-- A read that fails reports its address, and nothing but the bus changes (R80). -/
theorem memRead_eq_err {addr : Word} {s w : State} {e : BusError} (h : memRead addr s = .err e w) :
    (busRead addr s.bus).1 = none ∧ e = { addr := addr, kind := .read }
      ∧ w = s.setBus (busRead addr s.bus).2 := by
  unfold memRead at h
  split at h
  · cases h
  · rename_i b hb
    obtain ⟨rfl, rfl⟩ := Access.err.inj h
    rw [hb]
    exact ⟨rfl, rfl, rfl⟩

theorem memWrite_eq_ok {addr : Word} {v : Byte} {s w : State} {u : Unit}
    (h : memWrite addr v s = .ok u w) :
    (busWrite addr v s.bus).1 = true ∧ w = s.setBus (busWrite addr v s.bus).2 := by
  unfold memWrite at h
  split at h
  · rename_i b hb
    obtain ⟨-, rfl⟩ := Access.ok.inj h
    rw [hb]
    exact ⟨rfl, rfl⟩
  · cases h

theorem memWrite_eq_err {addr : Word} {v : Byte} {s w : State} {e : BusError}
    (h : memWrite addr v s = .err e w) :
    (busWrite addr v s.bus).1 = false ∧ e = { addr := addr, kind := .write }
      ∧ w = s.setBus (busWrite addr v s.bus).2 := by
  unfold memWrite at h
  split at h
  · cases h
  · rename_i b hb
    obtain ⟨rfl, rfl⟩ := Access.err.inj h
    rw [hb]
    exact ⟨rfl, rfl, rfl⟩

/-- A read in the RAM window (R74). -/
theorem memRead_ram {addr : Word} (h : addr < 0x2000) (s : State) :
    memRead addr s = .ok (s.bus.ram.read (addr &&& 0x07FF).toNat) s := by
  unfold memRead busRead
  rw [target_ram h]
  rfl

/-- A write in the RAM window (R74). -/
theorem memWrite_ram {addr : Word} (h : addr < 0x2000) (v : Byte) (s : State) :
    memWrite addr v s =
      .ok () (s.setBus (s.bus.setRam (s.bus.ram.write (addr &&& 0x07FF).toNat v))) := by
  unfold memWrite busWrite
  rw [target_ram h]

end Sys2Proof.Machine
end

