-- ==== Sys2Proof/Laws/Stack.lean ====
section
/-! SUPPORT. What the stack operations, the taking of a trap and the return from one do: every stack
access is a RAM access and completes (`10_state.md` rule R42). -/

namespace Sys2Proof.Machine

/-- The stack page lies in the RAM window (R42). -/
theorem stackAddr_lt (sp : Byte) : stackAddr sp < 0x2000 := by
  revert sp
  decide

/-- The stack byte SP designates is byte `0x100 + SP` of the RAM (R39). -/
theorem stackAddr_index (sp : Byte) : (stackAddr sp &&& 0x07FF).toNat = 0x100 + sp.toNat := by
  revert sp
  decide

theorem stackIndex_lt (sp : Byte) : 0x100 + sp.toNat < 2048 := by
  have := sp.isLt
  omega

/-- `push` writes one byte of the RAM and lowers SP; it never fails (R40, R42). -/
theorem push_eq (v : Byte) (s : State) :
    push v s =
      .ok () ((s.setBus (s.bus.setRam (s.bus.ram.write (0x100 + s.sp.toNat) v))).setSp (s.sp - 1)) := by
  unfold push
  rw [memWrite_ram (stackAddr_lt s.sp), stackAddr_index]
  rfl

/-- `pull` raises SP and reads one byte of the RAM; it never fails (R41, R42). -/
theorem pull_eq (s : State) :
    pull s = .ok (s.bus.ram.read (0x100 + (s.sp + 1).toNat)) (s.setSp (s.sp + 1)) := by
  unfold pull
  rw [memRead_ram (stackAddr_lt (s.sp + 1)), stackAddr_index]
  rfl

/-- Pushing a word: the high byte at SP, the low byte one below (R82). -/
theorem pushWord_eq (w : Word) (s : State) :
    pushWord w s =
      .ok () ((s.setBus (s.bus.setRam ((s.bus.ram.write (0x100 + s.sp.toNat) (hi8 w)).write
        (0x100 + (s.sp - 1).toNat) (lo8 w)))).setSp (s.sp - 1 - 1)) := by
  simp only [pushWord, push_eq, Access.bind_ok]
  rfl

/-- Pulling a word: the low byte first (R82). -/
theorem pullWord_eq (s : State) :
    pullWord s =
      .ok (word (s.bus.ram.read (0x100 + (s.sp + 1 + 1).toNat))
        (s.bus.ram.read (0x100 + (s.sp + 1).toNat))) (s.setSp (s.sp + 1 + 1)) := by
  simp only [pullWord, pull_eq, Access.bind_ok]
  rfl

/-- The RAM after the three pushes of a trap entry (R291, R320). -/
def trapRam (m : Memory) (sp : Byte) (pc : Word) (pushed : Byte) : Memory :=
  ((m.write (0x100 + sp.toNat) (hi8 pc)).write (0x100 + (sp - 1).toNat) (lo8 pc)).write
    (0x100 + (sp - 1 - 1).toNat) pushed

/-- The state in which a trap entry reads its vector. -/
def trapEntered (brk : Bool) (s : State) : State :=
  ((s.setBus (s.bus.setRam (trapRam s.bus.ram s.sp s.pc (s.p.pushed brk)))).setSp
    (s.sp - 1 - 1 - 1)).setP (s.p.set .i true)

/-- Taking a trap: three bytes pushed, I set, then the vector read decides (R291, R320). -/
theorem enterTrap_eq (vec : Word) (brk : Bool) (s : State) :
    enterTrap vec brk s =
      (read16 vec (trapEntered brk s)).bind fun target w => .ok () (w.jump target) := by
  simp only [enterTrap, pushWord_eq, push_eq, Access.bind_ok]
  rfl

/-- Returning from a trap: P, then PC, from three bytes of the RAM (R292). -/
theorem returnFromTrap_eq (s : State) :
    returnFromTrap s =
      .ok () (((s.setP (Status.load (s.bus.ram.read (0x100 + (s.sp + 1).toNat)))).setSp
        (s.sp + 1 + 1 + 1)).setPc
          (word (s.bus.ram.read (0x100 + (s.sp + 1 + 1 + 1).toNat))
            (s.bus.ram.read (0x100 + (s.sp + 1 + 1).toNat)))) := by
  simp only [returnFromTrap, pull_eq, pullWord_eq, Access.bind_ok]
  rfl

theorem trapRam_wf {m : Memory} (h : Memory.wf m) (sp : Byte) (pc : Word) (v : Byte) :
    Memory.wf (trapRam m sp pc v) :=
  Memory.write_wf (Memory.write_wf (Memory.write_wf h (stackIndex_lt _) _) (stackIndex_lt _) _)
    (stackIndex_lt _) _

end Sys2Proof.Machine
end

