-- ==== Sys2Proof/Laws/Operand.lean ====
section
/-! SUPPORT. What the resolver and the reading and writing of an operand can change: nothing but the
bus, and on it no byte of the RAM when nothing is stored (`40_addressing_modes.md` rule R130). -/

namespace Sys2Proof.Machine

/-- The state a piece of a step ends in, whether it completes or fails. -/
def Access.final {α : Type} : Access α → State
  | .ok _ s => s
  | .err _ s => s

@[simp] theorem Access.final_ok {α : Type} (v : α) (s : State) : (Access.ok v s).final = s := rfl
@[simp] theorem Access.final_err {α : Type} (e : BusError) (s : State) :
    (Access.err e s : Access α).final = s := rfl

/-- From `s` to `w` only reads were made: everything but the bus is as in `s`, and on the bus the RAM
and the collaborators are. -/
def ReadsOnly (s w : State) : Prop :=
  w = s.setBus w.bus ∧ w.bus.ram = s.bus.ram ∧ s.bus.SameDevices w.bus

theorem ReadsOnly.refl (s : State) : ReadsOnly s s := ⟨rfl, rfl, Bus.SameDevices.refl _⟩

theorem ReadsOnly.trans {s w u : State} (h : ReadsOnly s w) (h' : ReadsOnly w u) : ReadsOnly s u := by
  refine ⟨?_, h'.2.1.trans h.2.1, h.2.2.trans h'.2.2⟩
  rw [h'.1, h.1]
  rfl

theorem ReadsOnly.bind {α β : Type} {s : State} {r : Access α} {f : α → State → Access β}
    (h : ReadsOnly s r.final) (hf : ∀ v w, r = .ok v w → ReadsOnly w (f v w).final) :
    ReadsOnly s (r.bind f).final := by
  cases r with
  | ok v w => exact h.trans (hf v w rfl)
  | err e w => exact h

theorem memRead_readsOnly (addr : Word) (s : State) : ReadsOnly s (memRead addr s).final := by
  have key : (memRead addr s).final = s.setBus (busRead addr s.bus).2 := by
    unfold memRead
    split <;> rename_i hb <;> rw [hb] <;> rfl
  rw [key]
  exact ⟨rfl, busRead_ram .., busRead_devices ..⟩

theorem read16_readsOnly (a : Word) (s : State) : ReadsOnly s (read16 a s).final :=
  (memRead_readsOnly a s).bind fun _ w _ =>
    (memRead_readsOnly (a + 1) w).bind fun _ u _ => ReadsOnly.refl u

theorem zpRead16_readsOnly (p : Byte) (s : State) : ReadsOnly s (zpRead16 p s).final :=
  (memRead_readsOnly (zext16 p) s).bind fun _ w _ =>
    (memRead_readsOnly (zext16 (p + 1)) w).bind fun _ u _ => ReadsOnly.refl u

/-- A zero-page pointer lies in the RAM: its read completes and changes nothing (R15, R74). -/
theorem zpRead16_eq (p : Byte) (s : State) :
    zpRead16 p s = .ok (word (s.bus.ram.read (p + 1).toNat) (s.bus.ram.read p.toNat)) s := by
  have hlt : ∀ b : Byte, zext16 b < 0x2000 := by decide
  have hix : ∀ b : Byte, (zext16 b &&& 0x07FF).toNat = b.toNat := by decide
  unfold zpRead16
  rw [memRead_ram (hlt p), Access.bind_ok, memRead_ram (hlt (p + 1)), Access.bind_ok, hix, hix]

/-- Every memory operand but JMP's Indirect is found without a failing access, in an unchanged state. -/
theorem resolve_memory {o : Operand} (s : State) (h : o.mode ∉ [Mode.accumulator, .immediate, .indirect]) :
    ∃ ea crossed, resolve o s = .ok { loc := .memory ea, crossed := crossed } s := by
  cases o with
  | accumulator => exact absurd h (by decide)
  | immediate imm => exact absurd h (by simp [Operand.mode])
  | indirect ptr => exact absurd h (by simp [Operand.mode])
  | indirectX zp =>
    simp only [resolve, zpRead16_eq, Access.bind_ok]
    exact ⟨_, _, rfl⟩
  | indirectY zp =>
    simp only [resolve, zpRead16_eq, Access.bind_ok]
    exact ⟨_, _, rfl⟩
  | _ => exact ⟨_, _, rfl⟩

/-- The resolver makes reads only (R130). -/
theorem resolve_readsOnly (o : Operand) (s : State) : ReadsOnly s (resolve o s).final := by
  cases o with
  | indirect ptr =>
    exact (memRead_readsOnly ptr s).bind fun _ w _ =>
      (memRead_readsOnly (pointerHighAddr ptr) w).bind fun _ u _ => ReadsOnly.refl u
  | indirectX zp => exact (zpRead16_readsOnly _ s).bind fun _ w _ => ReadsOnly.refl w
  | indirectY zp => exact (zpRead16_readsOnly _ s).bind fun _ w _ => ReadsOnly.refl w
  | _ => exact ReadsOnly.refl s

theorem readLocation_readsOnly (l : Location) (s : State) : ReadsOnly s (readLocation l s).final := by
  cases l with
  | memory ea => exact memRead_readsOnly ea s
  | _ => exact ReadsOnly.refl s

/-- The fetch makes reads only (R165, R87). -/
theorem fetch_readsOnly (s : State) : ReadsOnly s (fetch s).final := by
  refine (memRead_readsOnly s.pc s).bind fun op w _ => ?_
  split
  · exact ReadsOnly.refl w
  · exact (memRead_readsOnly _ w).bind fun _ u _ => ReadsOnly.refl u
  · exact (memRead_readsOnly _ w).bind fun _ u _ =>
      (memRead_readsOnly _ u).bind fun _ t _ => ReadsOnly.refl t

/-- A write that fails changes no byte of the RAM, and no register (R81). -/
theorem memWrite_err_readsOnly {addr : Word} {v : Byte} {s w : State} {e : BusError}
    (h : memWrite addr v s = .err e w) : ReadsOnly s w := by
  obtain ⟨h1, -, rfl⟩ := memWrite_eq_err h
  exact ⟨rfl, busWrite_ram_of_fails h1, busWrite_devices ..⟩

end Sys2Proof.Machine
end

