-- ==== Sys2Proof/Laws/PerInstr.lean ====
section
/-! SUPPORT. Statements about every instruction as syntax, one lemma per constructor of `Instr`. -/

namespace Sys2Proof.Laws

/-- The table names the instruction: its opcode's entry is its operation, its mode and its cost, or the
mark ILLEGAL for an illegal opcode (R104, R105). -/
def OpcodeInTable.Statement (i : Instr) : Prop :=
  i.wf = true →
    match i.operation with
    | some (m, mode) =>
      ∃ op c, i.opcode = some op ∧ i.cost = some c
        ∧ entryAt op = some (.documented m mode c.base c.penalty)
    | none => ∃ op, i.opcode = some op ∧ entryAt op = some .illegal

/-- Each opcode rule R107 lists has an entry marked illegal. -/
theorem illegalOpcodes_entry : ∀ op ∈ illegalOpcodes, entryAt op = some .illegal := by decide

theorem OpcodeInTable.lda (o : Operand) : OpcodeInTable.Statement (.lda o) := by
  intro h
  cases o <;> first
    | exact ⟨_, _, rfl, rfl, rfl⟩
    | exact absurd h Bool.false_ne_true

theorem OpcodeInTable.ldx (o : Operand) : OpcodeInTable.Statement (.ldx o) := by
  intro h
  cases o <;> first
    | exact ⟨_, _, rfl, rfl, rfl⟩
    | exact absurd h Bool.false_ne_true

theorem OpcodeInTable.ldy (o : Operand) : OpcodeInTable.Statement (.ldy o) := by
  intro h
  cases o <;> first
    | exact ⟨_, _, rfl, rfl, rfl⟩
    | exact absurd h Bool.false_ne_true

theorem OpcodeInTable.sta (o : Operand) : OpcodeInTable.Statement (.sta o) := by
  intro h
  cases o <;> first
    | exact ⟨_, _, rfl, rfl, rfl⟩
    | exact absurd h Bool.false_ne_true

theorem OpcodeInTable.stx (o : Operand) : OpcodeInTable.Statement (.stx o) := by
  intro h
  cases o <;> first
    | exact ⟨_, _, rfl, rfl, rfl⟩
    | exact absurd h Bool.false_ne_true

theorem OpcodeInTable.sty (o : Operand) : OpcodeInTable.Statement (.sty o) := by
  intro h
  cases o <;> first
    | exact ⟨_, _, rfl, rfl, rfl⟩
    | exact absurd h Bool.false_ne_true

theorem OpcodeInTable.tax : OpcodeInTable.Statement (.tax) := fun _ =>
  ⟨_, _, rfl, rfl, rfl⟩

theorem OpcodeInTable.tay : OpcodeInTable.Statement (.tay) := fun _ =>
  ⟨_, _, rfl, rfl, rfl⟩

theorem OpcodeInTable.txa : OpcodeInTable.Statement (.txa) := fun _ =>
  ⟨_, _, rfl, rfl, rfl⟩

theorem OpcodeInTable.tya : OpcodeInTable.Statement (.tya) := fun _ =>
  ⟨_, _, rfl, rfl, rfl⟩

theorem OpcodeInTable.tsx : OpcodeInTable.Statement (.tsx) := fun _ =>
  ⟨_, _, rfl, rfl, rfl⟩

theorem OpcodeInTable.txs : OpcodeInTable.Statement (.txs) := fun _ =>
  ⟨_, _, rfl, rfl, rfl⟩

theorem OpcodeInTable.adc (o : Operand) : OpcodeInTable.Statement (.adc o) := by
  intro h
  cases o <;> first
    | exact ⟨_, _, rfl, rfl, rfl⟩
    | exact absurd h Bool.false_ne_true

theorem OpcodeInTable.sbc (o : Operand) : OpcodeInTable.Statement (.sbc o) := by
  intro h
  cases o <;> first
    | exact ⟨_, _, rfl, rfl, rfl⟩
    | exact absurd h Bool.false_ne_true

theorem OpcodeInTable.and (o : Operand) : OpcodeInTable.Statement (.and o) := by
  intro h
  cases o <;> first
    | exact ⟨_, _, rfl, rfl, rfl⟩
    | exact absurd h Bool.false_ne_true

theorem OpcodeInTable.ora (o : Operand) : OpcodeInTable.Statement (.ora o) := by
  intro h
  cases o <;> first
    | exact ⟨_, _, rfl, rfl, rfl⟩
    | exact absurd h Bool.false_ne_true

theorem OpcodeInTable.eor (o : Operand) : OpcodeInTable.Statement (.eor o) := by
  intro h
  cases o <;> first
    | exact ⟨_, _, rfl, rfl, rfl⟩
    | exact absurd h Bool.false_ne_true

theorem OpcodeInTable.cmp (o : Operand) : OpcodeInTable.Statement (.cmp o) := by
  intro h
  cases o <;> first
    | exact ⟨_, _, rfl, rfl, rfl⟩
    | exact absurd h Bool.false_ne_true

theorem OpcodeInTable.cpx (o : Operand) : OpcodeInTable.Statement (.cpx o) := by
  intro h
  cases o <;> first
    | exact ⟨_, _, rfl, rfl, rfl⟩
    | exact absurd h Bool.false_ne_true

theorem OpcodeInTable.cpy (o : Operand) : OpcodeInTable.Statement (.cpy o) := by
  intro h
  cases o <;> first
    | exact ⟨_, _, rfl, rfl, rfl⟩
    | exact absurd h Bool.false_ne_true

theorem OpcodeInTable.bit (o : Operand) : OpcodeInTable.Statement (.bit o) := by
  intro h
  cases o <;> first
    | exact ⟨_, _, rfl, rfl, rfl⟩
    | exact absurd h Bool.false_ne_true

theorem OpcodeInTable.asl (o : Operand) : OpcodeInTable.Statement (.asl o) := by
  intro h
  cases o <;> first
    | exact ⟨_, _, rfl, rfl, rfl⟩
    | exact absurd h Bool.false_ne_true

theorem OpcodeInTable.lsr (o : Operand) : OpcodeInTable.Statement (.lsr o) := by
  intro h
  cases o <;> first
    | exact ⟨_, _, rfl, rfl, rfl⟩
    | exact absurd h Bool.false_ne_true

theorem OpcodeInTable.rol (o : Operand) : OpcodeInTable.Statement (.rol o) := by
  intro h
  cases o <;> first
    | exact ⟨_, _, rfl, rfl, rfl⟩
    | exact absurd h Bool.false_ne_true

theorem OpcodeInTable.ror (o : Operand) : OpcodeInTable.Statement (.ror o) := by
  intro h
  cases o <;> first
    | exact ⟨_, _, rfl, rfl, rfl⟩
    | exact absurd h Bool.false_ne_true

theorem OpcodeInTable.inc (o : Operand) : OpcodeInTable.Statement (.inc o) := by
  intro h
  cases o <;> first
    | exact ⟨_, _, rfl, rfl, rfl⟩
    | exact absurd h Bool.false_ne_true

theorem OpcodeInTable.dec (o : Operand) : OpcodeInTable.Statement (.dec o) := by
  intro h
  cases o <;> first
    | exact ⟨_, _, rfl, rfl, rfl⟩
    | exact absurd h Bool.false_ne_true

theorem OpcodeInTable.inx : OpcodeInTable.Statement (.inx) := fun _ =>
  ⟨_, _, rfl, rfl, rfl⟩

theorem OpcodeInTable.iny : OpcodeInTable.Statement (.iny) := fun _ =>
  ⟨_, _, rfl, rfl, rfl⟩

theorem OpcodeInTable.dex : OpcodeInTable.Statement (.dex) := fun _ =>
  ⟨_, _, rfl, rfl, rfl⟩

theorem OpcodeInTable.dey : OpcodeInTable.Statement (.dey) := fun _ =>
  ⟨_, _, rfl, rfl, rfl⟩

theorem OpcodeInTable.jmp (o : Operand) : OpcodeInTable.Statement (.jmp o) := by
  intro h
  cases o <;> first
    | exact ⟨_, _, rfl, rfl, rfl⟩
    | exact absurd h Bool.false_ne_true

theorem OpcodeInTable.jsr (target : Word) : OpcodeInTable.Statement (.jsr target) := fun _ =>
  ⟨_, _, rfl, rfl, rfl⟩

theorem OpcodeInTable.rts : OpcodeInTable.Statement (.rts) := fun _ =>
  ⟨_, _, rfl, rfl, rfl⟩

theorem OpcodeInTable.bpl (d : Byte) : OpcodeInTable.Statement (.bpl d) := fun _ =>
  ⟨_, _, rfl, rfl, rfl⟩

theorem OpcodeInTable.bmi (d : Byte) : OpcodeInTable.Statement (.bmi d) := fun _ =>
  ⟨_, _, rfl, rfl, rfl⟩

theorem OpcodeInTable.bvc (d : Byte) : OpcodeInTable.Statement (.bvc d) := fun _ =>
  ⟨_, _, rfl, rfl, rfl⟩

theorem OpcodeInTable.bvs (d : Byte) : OpcodeInTable.Statement (.bvs d) := fun _ =>
  ⟨_, _, rfl, rfl, rfl⟩

theorem OpcodeInTable.bcc (d : Byte) : OpcodeInTable.Statement (.bcc d) := fun _ =>
  ⟨_, _, rfl, rfl, rfl⟩

theorem OpcodeInTable.bcs (d : Byte) : OpcodeInTable.Statement (.bcs d) := fun _ =>
  ⟨_, _, rfl, rfl, rfl⟩

theorem OpcodeInTable.bne (d : Byte) : OpcodeInTable.Statement (.bne d) := fun _ =>
  ⟨_, _, rfl, rfl, rfl⟩

theorem OpcodeInTable.beq (d : Byte) : OpcodeInTable.Statement (.beq d) := fun _ =>
  ⟨_, _, rfl, rfl, rfl⟩

theorem OpcodeInTable.pha : OpcodeInTable.Statement (.pha) := fun _ =>
  ⟨_, _, rfl, rfl, rfl⟩

theorem OpcodeInTable.php : OpcodeInTable.Statement (.php) := fun _ =>
  ⟨_, _, rfl, rfl, rfl⟩

theorem OpcodeInTable.pla : OpcodeInTable.Statement (.pla) := fun _ =>
  ⟨_, _, rfl, rfl, rfl⟩

theorem OpcodeInTable.plp : OpcodeInTable.Statement (.plp) := fun _ =>
  ⟨_, _, rfl, rfl, rfl⟩

theorem OpcodeInTable.clc : OpcodeInTable.Statement (.clc) := fun _ =>
  ⟨_, _, rfl, rfl, rfl⟩

theorem OpcodeInTable.sec : OpcodeInTable.Statement (.sec) := fun _ =>
  ⟨_, _, rfl, rfl, rfl⟩

theorem OpcodeInTable.cli : OpcodeInTable.Statement (.cli) := fun _ =>
  ⟨_, _, rfl, rfl, rfl⟩

theorem OpcodeInTable.sei : OpcodeInTable.Statement (.sei) := fun _ =>
  ⟨_, _, rfl, rfl, rfl⟩

theorem OpcodeInTable.clv : OpcodeInTable.Statement (.clv) := fun _ =>
  ⟨_, _, rfl, rfl, rfl⟩

theorem OpcodeInTable.cld : OpcodeInTable.Statement (.cld) := fun _ =>
  ⟨_, _, rfl, rfl, rfl⟩

theorem OpcodeInTable.sed : OpcodeInTable.Statement (.sed) := fun _ =>
  ⟨_, _, rfl, rfl, rfl⟩

theorem OpcodeInTable.brk : OpcodeInTable.Statement (.brk) := fun _ =>
  ⟨_, _, rfl, rfl, rfl⟩

theorem OpcodeInTable.rti : OpcodeInTable.Statement (.rti) := fun _ =>
  ⟨_, _, rfl, rfl, rfl⟩

theorem OpcodeInTable.nop : OpcodeInTable.Statement (.nop) := fun _ =>
  ⟨_, _, rfl, rfl, rfl⟩

theorem OpcodeInTable.illegal (op : Byte) : OpcodeInTable.Statement (.illegal op) := fun h =>
  ⟨op, rfl, illegalOpcodes_entry op (by simpa [Instr.wf] using h)⟩

/-- The table names every well-formed instruction. -/
theorem opcodeInTable (i : Instr) : OpcodeInTable.Statement i := by
  cases i with
  | lda o => exact OpcodeInTable.lda o
  | ldx o => exact OpcodeInTable.ldx o
  | ldy o => exact OpcodeInTable.ldy o
  | sta o => exact OpcodeInTable.sta o
  | stx o => exact OpcodeInTable.stx o
  | sty o => exact OpcodeInTable.sty o
  | tax => exact OpcodeInTable.tax
  | tay => exact OpcodeInTable.tay
  | txa => exact OpcodeInTable.txa
  | tya => exact OpcodeInTable.tya
  | tsx => exact OpcodeInTable.tsx
  | txs => exact OpcodeInTable.txs
  | adc o => exact OpcodeInTable.adc o
  | sbc o => exact OpcodeInTable.sbc o
  | and o => exact OpcodeInTable.and o
  | ora o => exact OpcodeInTable.ora o
  | eor o => exact OpcodeInTable.eor o
  | cmp o => exact OpcodeInTable.cmp o
  | cpx o => exact OpcodeInTable.cpx o
  | cpy o => exact OpcodeInTable.cpy o
  | bit o => exact OpcodeInTable.bit o
  | asl o => exact OpcodeInTable.asl o
  | lsr o => exact OpcodeInTable.lsr o
  | rol o => exact OpcodeInTable.rol o
  | ror o => exact OpcodeInTable.ror o
  | inc o => exact OpcodeInTable.inc o
  | dec o => exact OpcodeInTable.dec o
  | inx => exact OpcodeInTable.inx
  | iny => exact OpcodeInTable.iny
  | dex => exact OpcodeInTable.dex
  | dey => exact OpcodeInTable.dey
  | jmp o => exact OpcodeInTable.jmp o
  | jsr target => exact OpcodeInTable.jsr target
  | rts => exact OpcodeInTable.rts
  | bpl d => exact OpcodeInTable.bpl d
  | bmi d => exact OpcodeInTable.bmi d
  | bvc d => exact OpcodeInTable.bvc d
  | bvs d => exact OpcodeInTable.bvs d
  | bcc d => exact OpcodeInTable.bcc d
  | bcs d => exact OpcodeInTable.bcs d
  | bne d => exact OpcodeInTable.bne d
  | beq d => exact OpcodeInTable.beq d
  | pha => exact OpcodeInTable.pha
  | php => exact OpcodeInTable.php
  | pla => exact OpcodeInTable.pla
  | plp => exact OpcodeInTable.plp
  | clc => exact OpcodeInTable.clc
  | sec => exact OpcodeInTable.sec
  | cli => exact OpcodeInTable.cli
  | sei => exact OpcodeInTable.sei
  | clv => exact OpcodeInTable.clv
  | cld => exact OpcodeInTable.cld
  | sed => exact OpcodeInTable.sed
  | brk => exact OpcodeInTable.brk
  | rti => exact OpcodeInTable.rti
  | nop => exact OpcodeInTable.nop
  | illegal op => exact OpcodeInTable.illegal op

end Sys2Proof.Laws
end

