-- ==== Sys2Proof/Laws/Shapes.lean ====
section
/-! SUPPORT. One spec lemma per shared shape of instruction: what it answers when its accesses complete,
and when one fails; and what a step can be. -/

namespace Sys2Proof.Machine

/-! ## The end of a step -/

@[simp] theorem conclude_ok {α : Type} (s w : State) (v : α) (f : α → State → State) :
    conclude s (.ok v w) f = .next (f v w) := rfl

@[simp] theorem conclude_err {α : Type} (s w : State) (e : BusError) (f : α → State → State) :
    conclude s (.err e w : Access α) f = abortsAt s e w := rfl

/-- A step that completes: its accesses completed. -/
theorem conclude_eq_next {α : Type} {s t : State} {r : Access α} {f : α → State → State}
    (h : conclude s r f = .next t) : ∃ v w, r = .ok v w ∧ t = f v w := by
  cases r with
  | ok v w => exact ⟨v, w, rfl, (by simpa using h.symm)⟩
  | err e w => cases h

/-- A step that ends with an error: an access failed. -/
theorem conclude_eq_fault {α : Type} {s : State} {r : Access α} {f : α → State → State} {x : Fault}
    (h : conclude s r f = .fault x) :
    ∃ e w, r = .err e w ∧ x = .addressError e.addr e.kind (s.setBus w.bus) := by
  cases r with
  | ok v w => cases h
  | err e w => exact ⟨e, w, rfl, (Host.Outcome.fault.inj h).symm⟩

theorem conclude_ne_refused {α : Type} {s : State} {r : Access α} {f : α → State → State}
    {x : Refusal} : conclude s r f ≠ .refused x := by
  cases r <;> exact fun h => nomatch h

/-- A well-formed instruction other than an illegal opcode has a cost in the table (R104). -/
theorem wf_cost {i : Instr} (h : i.wf = true) (ho : i.operation ≠ none) : ∃ c, i.cost = some c := by
  have key := Laws.opcodeInTable i h
  cases hop : i.operation with
  | none => exact absurd hop ho
  | some mm =>
    rw [hop] at key
    obtain ⟨-, c, -, hc, -⟩ := key
    exact ⟨c, hc⟩

theorem runInstr_eq {i : Instr} {c : Cost} (hc : i.cost = some c) (s : State)
    (body : State → Access Flow) :
    runInstr i s body = conclude s (body (s.advance i.length)) (retire i s c) := by
  unfold runInstr
  rw [hc]

/-- An instruction that completes: its body completed, and the end of the step followed. -/
theorem runInstr_eq_next {i : Instr} {s t : State} {body : State → Access Flow}
    (h : runInstr i s body = .next t) :
    ∃ c f w, i.cost = some c ∧ body (s.advance i.length) = .ok f w ∧ t = retire i s c f w := by
  cases hc : i.cost with
  | none =>
    unfold runInstr at h
    rw [hc] at h
    cases h
  | some c =>
    rw [runInstr_eq hc] at h
    obtain ⟨f, w, hb, ht⟩ := conclude_eq_next h
    exact ⟨c, f, w, rfl, hb, ht⟩

/-- An instruction that ends with an error: an access of its body failed, and only the bus has moved. -/
theorem runInstr_eq_fault {i : Instr} {s : State} {body : State → Access Flow} {x : Fault}
    (h : runInstr i s body = .fault x) :
    ∃ e w, body (s.advance i.length) = .err e w
      ∧ x = .addressError e.addr e.kind (s.setBus w.bus) := by
  cases hc : i.cost with
  | none =>
    unfold runInstr at h
    rw [hc] at h
    cases h
  | some c =>
    rw [runInstr_eq hc] at h
    exact conclude_eq_fault h

/-- The end of an instruction, in the terms claims use. -/
theorem retire_eq_after {i : Instr} {c : Cost} (hc : i.cost = some c) {s w : State}
    (hpc : w.pc = s.pc + BitVec.ofNat 16 i.length) (hcy : w.cycles = s.cycles) (crossed : Bool) :
    retire i s c { crossed := crossed, taken := false } w = after i s crossed w.bus w := by
  have hp : penaltyCycles c.penalty { crossed := crossed, taken := false }
      = match c.penalty with
        | .none => 0
        | .read => if crossed then 1 else 0
        | .branch => 0 := by
    unfold penaltyCycles
    cases c.penalty <;> rfl
  have hd : (delaysPoll i = true) ↔ (i = .cli ∨ i = .sei ∨ i = .plp) := by
    cases i <;> simp [delaysPoll]
  unfold retire after charge
  rw [hc, hp]
  obtain ⟨a, x, y, sp, pc, p, cy, r, n, q, ip, b, cfg⟩ := w
  simp only at hpc hcy
  subst hpc hcy
  simp only [State.setCycles, State.setIPoll, hd, State.mk.injEq, true_and, and_true]
  cases c.penalty <;> simp [Nat.add_assoc]

/-! ## The shapes -/

theorem readShape_ok {i : Instr} {c : Cost} (hc : i.cost = some c) {o : Operand} {s w : State}
    {m : Byte} {crossed : Bool} (h : operandRead i o s = .ok (m, crossed) w)
    (f : Byte → State → State) :
    readShape i o s f = .next (retire i s c { crossed := crossed, taken := false } (f m w)) := by
  unfold operandRead operandPlace at h
  obtain ⟨r, w1, hr, h⟩ := Access.bind_eq_ok h
  obtain ⟨v, w2, hv, h⟩ := Access.bind_eq_ok h
  obtain ⟨hm, rfl⟩ := Access.ok.inj h
  obtain ⟨rfl, rfl⟩ := Prod.mk.inj hm
  unfold readShape
  rw [runInstr_eq hc, hr, Access.bind_ok, hv]
  rfl

theorem readShape_err {i : Instr} {c : Cost} (hc : i.cost = some c) {o : Operand} {s w : State}
    {e : BusError} (h : operandRead i o s = .err e w) (f : Byte → State → State) :
    readShape i o s f = abortsAt s e w := by
  unfold operandRead operandPlace at h
  unfold readShape
  rw [runInstr_eq hc]
  rcases Access.bind_eq_err h with h | ⟨r, w1, hr, h⟩
  · rw [h]
    rfl
  · rw [hr, Access.bind_ok]
    rcases Access.bind_eq_err h with h | ⟨v, w2, -, h⟩
    · rw [h]
      rfl
    · cases h

theorem impliedShape_eq {i : Instr} {c : Cost} (hc : i.cost = some c) (s : State)
    (f : State → State) :
    impliedShape i s f = .next (retire i s c Flow.straight (f (s.advance i.length))) := by
  unfold impliedShape
  rw [runInstr_eq hc]
  rfl

theorem stackShape_eq {i : Instr} {c : Cost} (hc : i.cost = some c) (s : State)
    (f : State → Access Unit) :
    stackShape i s f =
      conclude s (f (s.advance i.length)) (fun _ w => retire i s c Flow.straight w) := by
  unfold stackShape
  rw [runInstr_eq hc]
  cases f (s.advance i.length) <;> rfl

theorem branchShape_eq {i : Instr} {c : Cost} (hc : i.cost = some c) (d : Byte) (s : State)
    (cond : Bool) :
    branchShape i d s cond =
      .next (retire i s c
        { crossed := hi8 (branchTarget (s.advance i.length).pc d) != hi8 (s.advance i.length).pc
          taken := cond }
        (if cond then (s.advance i.length).jump (branchTarget (s.advance i.length).pc d)
          else s.advance i.length)) := by
  unfold branchShape
  rw [runInstr_eq hc]
  rfl

/-- The reads of an operand leave everything but the bus, PC having moved past the instruction. -/
theorem operandRead_readsOnly (i : Instr) (o : Operand) (s : State) :
    ReadsOnly (s.advance i.length) (operandRead i o s).final :=
  (resolve_readsOnly o _).bind fun r w _ =>
    (readLocation_readsOnly r.loc w).bind fun _ u _ => ReadsOnly.refl u

/-! ## Branch targets -/

/-- The integer displacement is `sext_16`, modulo 65536 (R12). -/
theorem ofInt_displacement (d : Byte) : BitVec.ofInt 16 (displacement d) = sext16 d := by
  revert d
  decide

/-- Two addresses are in one page exactly when their page numbers are equal (R19). -/
theorem hi8_eq_iff (a b : Word) : hi8 a = hi8 b ↔ a.toNat / 256 = b.toNat / 256 := by
  unfold hi8
  rw [← BitVec.toNat_inj]
  simp only [BitVec.extractLsb'_toNat, Nat.shiftRight_eq_div_pow]
  have := a.isLt
  have := b.isLt
  omega

/-! ## The step -/

/-- What a step that completes can be (R160). -/
theorem step_eq_next {s t : State} (h : step s = .next t) :
    (s.resetPending = true ∧ takeReset s = .next t)
    ∨ (s.resetPending = false ∧ s.nmiRecognised = true ∧ enterInterrupt .nmi s = .next t)
    ∨ (s.resetPending = false ∧ s.nmiRecognised = false ∧ s.irqRecognised = true
        ∧ enterInterrupt .irq s = .next t)
    ∨ (s.quiet ∧ ∃ i w, fetch s = .ok i w ∧ exec i w = .next t) := by
  unfold step at h
  split at h
  · exact .inl ⟨‹_›, h⟩
  · split at h
    · exact .inr (.inl ⟨by simp_all, ‹_›, h⟩)
    · split at h
      · exact .inr (.inr (.inl ⟨by simp_all, by simp_all, ‹_›, h⟩))
      · refine .inr (.inr (.inr ⟨⟨by simp_all, by simp_all, by simp_all⟩, ?_⟩))
        unfold stepInstr at h
        split at h
        · exact ⟨_, _, ‹_›, h⟩
        · cases h

/-- With no event pending, a step runs the instruction it fetches. -/
theorem step_quiet {s : State} (h : s.quiet) : step s = stepInstr s := by
  obtain ⟨h1, h2, h3⟩ := h
  unfold step
  rw [h1, h2, h3]
  rfl

end Sys2Proof.Machine
end

