-- ==== Sys2Proof/Laws/Inversion.lean ====
section
/-! SUPPORT. Inversion: what an instruction, and each shared shape of instruction, can do. If a shape
answers a next state, these lemmas say which state it is. -/

namespace Sys2Proof.Machine

/-- What the execution of an instruction is: an illegal opcode's fault, the refusal of rule R231, or the
frame of a documented instruction around the instruction's own effect. -/
theorem exec_cases (i : Instr) (s : State) :
    (∃ op, i = .illegal op ∧ exec i s = .fault (.illegalOpcode op s.pc s))
    ∨ ((∃ o, i = .adc o ∨ i = .sbc o) ∧ s.refusesDecimal = true ∧ exec i s = .refused .decimalMode)
    ∨ (i.operation ≠ none ∧ ∃ body, exec i s = runInstr i s body) := by
  cases i with
  | illegal op => exact .inl ⟨op, rfl, rfl⟩
  | adc o =>
    by_cases h : s.refusesDecimal = true
    · exact .inr (.inl ⟨⟨o, .inl rfl⟩, h, if_pos h⟩)
    · exact .inr (.inr ⟨nofun, _, if_neg h⟩)
  | sbc o =>
    by_cases h : s.refusesDecimal = true
    · exact .inr (.inl ⟨⟨o, .inr rfl⟩, h, if_pos h⟩)
    · exact .inr (.inr ⟨nofun, _, if_neg h⟩)
  | _ =>
    refine .inr (.inr ⟨nofun, ?_⟩)
    simp only [exec,
      execLda, execLdx, execLdy, execSta, execStx, execSty, execTax, execTay, execTxa, execTya,
      execTsx, execTxs, execAnd, execOra, execEor, execCmp, execCpx, execCpy, execBit, execAsl,
      execLsr, execRol, execRor, execInc, execDec, execInx, execIny, execDex, execDey, execJmp,
      execJsr, execRts, execBpl, execBmi, execBvc, execBvs, execBcc, execBcs, execBne, execBeq,
      execPha, execPhp, execPla, execPlp, execClc, execSec, execCli, execSei, execClv, execCld,
      execSed, execBrk, execRti, execNop, readShape, storeShape, modifyShape, impliedShape,
      stackShape, branchShape]
    exact ⟨_, rfl⟩

/-- A place the resolver gives is A exactly for the Accumulator form (R132). -/
theorem resolve_accumulator {o : Operand} {s w : State} {r : Resolved} (h : resolve o s = .ok r w) :
    r.loc = .accumulator ↔ o = .accumulator := by
  cases o with
  | indirect ptr =>
    obtain ⟨lo, s1, -, h⟩ := Access.bind_eq_ok h
    obtain ⟨hi, s2, -, h⟩ := Access.bind_eq_ok h
    cases h
    exact ⟨nofun, nofun⟩
  | indirectX zp =>
    obtain ⟨ea, s1, -, h⟩ := Access.bind_eq_ok h
    cases h
    exact ⟨nofun, nofun⟩
  | indirectY zp =>
    obtain ⟨base, s1, -, h⟩ := Access.bind_eq_ok h
    cases h
    exact ⟨nofun, nofun⟩
  | accumulator =>
    cases h
    exact ⟨fun _ => rfl, fun _ => rfl⟩
  | _ =>
    cases h
    exact ⟨nofun, nofun⟩

/-- A write to a place that completes changes A, or one byte of the RAM, or forwards a call. -/
theorem writeLocation_ok {l : Location} {v : Byte} {s w : State} (h : writeLocation l v s = .ok () w) :
    w = { s with bus := w.bus, a := w.a } ∧ s.bus.SameDevices w.bus
      ∧ (l = .accumulator → w.bus = s.bus) ∧ (l ≠ .accumulator → w.a = s.a)
      ∧ ∀ k, (∀ ea, l = .memory ea → target ea ≠ .ram k) →
          w.bus.ram.read k = s.bus.ram.read k := by
  cases l with
  | accumulator =>
    cases h
    exact ⟨rfl, Bus.SameDevices.refl _, fun _ => rfl, fun h => absurd rfl h, fun _ _ => rfl⟩
  | literal b =>
    cases h
    exact ⟨rfl, Bus.SameDevices.refl _, nofun, fun _ => rfl, fun _ _ => rfl⟩
  | memory ea =>
    obtain ⟨-, rfl⟩ := memWrite_eq_ok h
    refine ⟨rfl, busWrite_devices .., nofun, fun _ => rfl, fun k hk => ?_⟩
    show Memory.read (busWrite ea v s.bus).2.ram k = _
    rcases busWrite_ram ea v s.bus with ⟨j, hj, hr⟩ | ⟨-, hr⟩
    · have hne : k ≠ j := by
        rintro rfl
        exact hk ea rfl hj
      rw [hr, Memory.read_write_ne _ hne]
    · rw [hr]

/-- A `readShape` that completes: PC past the instruction, a bus after reads, and the effect. -/
theorem readShape_next {i : Instr} {o : Operand} {s t : State} {f : Byte → State → State}
    (h : readShape i o s f = .next t) :
    ∃ c m crossed b, i.cost = some c ∧ b.ram = s.bus.ram ∧ s.bus.SameDevices b
      ∧ t = retire i s c { crossed := crossed, taken := false }
          (f m { s with pc := s.pc + BitVec.ofNat 16 i.length, bus := b }) := by
  obtain ⟨c, fl, w, hc, hb, ht⟩ := runInstr_eq_next h
  obtain ⟨r, w1, hr, hb⟩ := Access.bind_eq_ok hb
  obtain ⟨m, w2, hm, hb⟩ := Access.bind_eq_ok hb
  obtain ⟨rfl, rfl⟩ := Access.ok.inj hb
  have h1 := resolve_readsOnly o (s.advance i.length)
  rw [hr] at h1
  have h2 := readLocation_readsOnly r.loc w1
  rw [hm] at h2
  obtain ⟨h3, h4, h5⟩ := h1.trans h2
  refine ⟨c, m, r.crossed, w2.bus, hc, h4, h5, ?_⟩
  rw [ht, show w2 = _ from h3]
  rfl

/-- A `storeShape` that completes: one place of the operand is written. -/
theorem storeShape_next {i : Instr} {o : Operand} {s t : State} {v : State → Byte}
    (h : storeShape i o s v = .next t) :
    ∃ c crossed b, i.cost = some c ∧ s.bus.SameDevices b
      ∧ t = retire i s c { crossed := crossed, taken := false }
          { s with pc := s.pc + BitVec.ofNat 16 i.length, bus := b, a := t.a }
      ∧ (o ≠ .accumulator → t.a = s.a)
      ∧ ∃ r w, operandPlace i o s = .ok r w
        ∧ ∀ k, (∀ ea, r.loc = .memory ea → target ea ≠ .ram k) →
            b.ram.read k = s.bus.ram.read k := by
  obtain ⟨c, fl, w, hc, hb, ht⟩ := runInstr_eq_next h
  obtain ⟨r, w1, hr, hb⟩ := Access.bind_eq_ok hb
  obtain ⟨_, w2, hw, hb⟩ := Access.bind_eq_ok hb
  obtain ⟨rfl, rfl⟩ := Access.ok.inj hb
  have h1 := resolve_readsOnly o (s.advance i.length)
  rw [hr] at h1
  obtain ⟨h2, h3, h4⟩ := h1
  obtain ⟨q1, q2, -, q4, q5⟩ := writeLocation_ok hw
  have hta : t.a = w2.a := by rw [ht]; rfl
  have hwa : w1.a = s.a := by rw [show w1 = _ from h2]; rfl
  refine ⟨c, r.crossed, w2.bus, hc, h4.trans q2, ?_, fun ha => ?_, r, w1, hr, fun k hk => ?_⟩
  · rw [hta, ht, q1, show w1 = _ from h2]
    rfl
  · rw [hta, q4 (fun hl => ha ((resolve_accumulator hr).mp hl)), hwa]
  · rw [q5 k hk, show w1.bus.ram = s.bus.ram from h3]

/-- A `modifyShape` that completes: one place of the operand is written, and the flags follow. -/
theorem modifyShape_next {i : Instr} {o : Operand} {s t : State} {f : Byte → Status → Byte × Status}
    (h : modifyShape i o s f = .next t) :
    ∃ c crossed b v, i.cost = some c ∧ s.bus.SameDevices b
      ∧ t = retire i s c { crossed := crossed, taken := false }
          { s with
            pc := s.pc + BitVec.ofNat 16 i.length
            bus := b
            a := t.a
            p := (f v s.p).2 }
      ∧ (o ≠ .accumulator → t.a = s.a) ∧ (o = .accumulator → b.ram = s.bus.ram)
      ∧ ∃ r w, operandPlace i o s = .ok r w
        ∧ ∀ k, (∀ ea, r.loc = .memory ea → target ea ≠ .ram k) →
            b.ram.read k = s.bus.ram.read k := by
  obtain ⟨c, fl, w, hc, hb, ht⟩ := runInstr_eq_next h
  obtain ⟨r, w1, hr, hb⟩ := Access.bind_eq_ok hb
  obtain ⟨v, w2, hv, hb⟩ := Access.bind_eq_ok hb
  obtain ⟨_, w3, hw, hb⟩ := Access.bind_eq_ok hb
  obtain ⟨rfl, rfl⟩ := Access.ok.inj hb
  have h1 := resolve_readsOnly o (s.advance i.length)
  rw [hr] at h1
  have h2 := readLocation_readsOnly r.loc w1
  rw [hv] at h2
  obtain ⟨h2, h3, h4⟩ := h1.trans h2
  obtain ⟨q1, q2, q3, q4, q5⟩ := writeLocation_ok hw
  have hp : w2.p = s.p := by rw [show w2 = _ from h2]; rfl
  have hta : t.a = w3.a := by rw [ht]; rfl
  have hwa : w2.a = s.a := by rw [show w2 = _ from h2]; rfl
  have hram : w2.bus.ram = s.bus.ram := h3
  refine ⟨c, r.crossed, w3.bus, v, hc, h4.trans q2, ?_, fun ha => ?_, fun ha => ?_, r, w1, hr,
    fun k hk => ?_⟩
  · rw [hta, ht, q1, hp, show w2 = _ from h2]
    rfl
  · rw [hta, q4 (fun hl => ha ((resolve_accumulator hr).mp hl)), hwa]
  · rw [q3 ((resolve_accumulator hr).mpr ha), hram]
  · rw [q5 k hk, hram]

/-- An `impliedShape` completes with its effect. -/
theorem impliedShape_next {i : Instr} {s t : State} {f : State → State}
    (h : impliedShape i s f = .next t) :
    ∃ c, i.cost = some c ∧ t = retire i s c Flow.straight (f (s.advance i.length)) := by
  obtain ⟨c, fl, w, hc, hb, ht⟩ := runInstr_eq_next h
  cases hb
  exact ⟨c, hc, ht⟩

/-- A `stackShape` that completes: its accesses completed. -/
theorem stackShape_next {i : Instr} {s t : State} {f : State → Access Unit}
    (h : stackShape i s f = .next t) :
    ∃ c w, i.cost = some c ∧ f (s.advance i.length) = .ok () w
      ∧ t = retire i s c Flow.straight w := by
  obtain ⟨c, fl, w, hc, hb, ht⟩ := runInstr_eq_next h
  obtain ⟨_, w1, hw, hb⟩ := Access.bind_eq_ok hb
  cases hb
  exact ⟨c, _, hc, hw, ht⟩

/-- A branch completes, having changed PC alone. -/
theorem branchShape_next {i : Instr} {d : Byte} {s t : State} {cond : Bool}
    (h : branchShape i d s cond = .next t) :
    ∃ c pc crossed, i.cost = some c
      ∧ t = retire i s c { crossed := crossed, taken := cond } { s with pc := pc } := by
  obtain ⟨c, fl, w, hc, hb, ht⟩ := runInstr_eq_next h
  obtain ⟨rfl, rfl⟩ := Access.ok.inj hb
  refine ⟨c, if cond then branchTarget (s.advance i.length).pc d else (s.advance i.length).pc,
    hi8 (branchTarget (s.advance i.length).pc d) != hi8 (s.advance i.length).pc, hc, ?_⟩
  rw [ht]
  cases cond <;> rfl

/-- Taking a trap completes with three bytes pushed, I set and PC from the vector (R291, R320). -/
theorem enterTrap_ok {vec : Word} {brk : Bool} {s w : State} (h : enterTrap vec brk s = .ok () w) :
    ∃ pc b, b.ram = trapRam s.bus.ram s.sp s.pc (s.p.pushed brk) ∧ s.bus.SameDevices b
      ∧ w = { s with pc := pc, sp := s.sp - 1 - 1 - 1, p := { s.p with i := true }, bus := b } := by
  rw [enterTrap_eq] at h
  obtain ⟨v, w1, hr, h⟩ := Access.bind_eq_ok h
  obtain ⟨-, rfl⟩ := Access.ok.inj h
  have h1 := read16_readsOnly vec (trapEntered brk s)
  rw [hr] at h1
  refine ⟨v, w1.bus, h1.2.1, h1.2.2, ?_⟩
  rw [show w1 = _ from h1.1]
  rfl

end Sys2Proof.Machine
end

