-- ==== Sys2Proof/Tests/Slice0.lean ====
section
/-! SUPPORT. Tests: the well-formedness checks, decoding, single steps whose expected results come from
the spec's worked examples and vectors (`95_test_vectors.md`, the "Example:" lines of `42_` to `46_`),
and one witness for each statement that has hypotheses. -/

namespace Sys2Proof.Tests

open Sys2Proof Sys2Proof.Machine

/-! ## Well-formedness: one ill-formed term for each check -/

theorem test_wf_refuses_accumulatorRead :
    (Instr.lda .accumulator).wf = false ∧ (Instr.adc (.zeroPageY 0)).wf = false
      ∧ (Instr.sbc (.indirect 0)).wf = false ∧ (Instr.and .accumulator).wf = false
      ∧ (Instr.ora (.zeroPageY 0)).wf = false ∧ (Instr.eor (.indirect 0)).wf = false
      ∧ (Instr.cmp .accumulator).wf = false := by decide

theorem test_wf_refuses_indexLoad :
    (Instr.ldx (.zeroPageX 0)).wf = false ∧ (Instr.ldx (.indirectX 0)).wf = false
      ∧ (Instr.ldy (.zeroPageY 0)).wf = false ∧ (Instr.ldy (.absoluteY 0)).wf = false := by decide

theorem test_wf_refuses_store :
    (Instr.sta (.immediate 0)).wf = false ∧ (Instr.stx (.zeroPageX 0)).wf = false
      ∧ (Instr.sty (.absoluteX 0)).wf = false := by decide

theorem test_wf_refuses_compare :
    (Instr.cpx (.zeroPageX 0)).wf = false ∧ (Instr.cpy (.absoluteY 0)).wf = false
      ∧ (Instr.bit (.immediate 0)).wf = false := by decide

theorem test_wf_refuses_modify :
    (Instr.asl (.immediate 0)).wf = false ∧ (Instr.lsr (.absoluteY 0)).wf = false
      ∧ (Instr.rol (.indirectX 0)).wf = false ∧ (Instr.ror (.zeroPageY 0)).wf = false
      ∧ (Instr.inc .accumulator).wf = false ∧ (Instr.dec .accumulator).wf = false := by decide

theorem test_wf_refuses_jump :
    (Instr.jmp (.absoluteX 0)).wf = false ∧ (Instr.jmp (.zeroPage 0)).wf = false := by decide

theorem test_wf_refuses_documented_as_illegal :
    (Instr.illegal 0xA9).wf = false ∧ (Instr.illegal 0xEA).wf = false := by decide

/-- `exec` refuses a term that is no instruction of the table, by name (log 13). -/
theorem test_exec_refuses_illFormed (s : State) :
    exec (.sta (.immediate 0)) s = .refused .illFormed := rfl

/-! ## Decoding: each constructor's word, written out from the `Encoding:` lines -/

theorem test_decode_loads :
    decode [0xA9, 0x2B] = .ok (.lda (.immediate 0x2B), [])
      ∧ decode [0xB1, 0x10] = .ok (.lda (.indirectY 0x10), [])
      ∧ decode [0xA2, 0x00] = .ok (.ldx (.immediate 0x00), [])
      ∧ decode [0xB6, 0xF0] = .ok (.ldx (.zeroPageY 0xF0), [])
      ∧ decode [0xA0, 0xFF] = .ok (.ldy (.immediate 0xFF), [])
      ∧ decode [0xBC, 0x34, 0x12] = .ok (.ldy (.absoluteX 0x1234), []) := by decide

theorem test_decode_stores :
    decode [0x8D, 0x00, 0x08] = .ok (.sta (.absolute 0x0800), [])
      ∧ decode [0x81, 0x10] = .ok (.sta (.indirectX 0x10), [])
      ∧ decode [0x96, 0xFF] = .ok (.stx (.zeroPageY 0xFF), [])
      ∧ decode [0x84, 0x20] = .ok (.sty (.zeroPage 0x20), []) := by decide

theorem test_decode_transfers :
    decode [0xAA] = .ok (.tax, []) ∧ decode [0xA8] = .ok (.tay, []) ∧ decode [0x8A] = .ok (.txa, [])
      ∧ decode [0x98] = .ok (.tya, []) ∧ decode [0xBA] = .ok (.tsx, [])
      ∧ decode [0x9A] = .ok (.txs, []) := by decide

theorem test_decode_alu :
    decode [0x7D, 0x34, 0x12] = .ok (.adc (.absoluteX 0x1234), [])
      ∧ decode [0xF9, 0x34, 0x12] = .ok (.sbc (.absoluteY 0x1234), [])
      ∧ decode [0x29, 0x0F] = .ok (.and (.immediate 0x0F), [])
      ∧ decode [0x01, 0x40] = .ok (.ora (.indirectX 0x40), [])
      ∧ decode [0x55, 0x40] = .ok (.eor (.zeroPageX 0x40), [])
      ∧ decode [0xC9, 0x20] = .ok (.cmp (.immediate 0x20), [])
      ∧ decode [0xE4, 0x05] = .ok (.cpx (.zeroPage 0x05), [])
      ∧ decode [0xCC, 0x34, 0x12] = .ok (.cpy (.absolute 0x1234), [])
      ∧ decode [0x24, 0x10] = .ok (.bit (.zeroPage 0x10), []) := by decide

theorem test_decode_shifts :
    decode [0x0A] = .ok (.asl .accumulator, []) ∧ decode [0x46, 0x10] = .ok (.lsr (.zeroPage 0x10), [])
      ∧ decode [0x2A] = .ok (.rol .accumulator, [])
      ∧ decode [0x6E, 0x34, 0x12] = .ok (.ror (.absolute 0x1234), [])
      ∧ decode [0xF6, 0x10] = .ok (.inc (.zeroPageX 0x10), [])
      ∧ decode [0xDE, 0x34, 0x12] = .ok (.dec (.absoluteX 0x1234), [])
      ∧ decode [0xE8] = .ok (.inx, []) ∧ decode [0xC8] = .ok (.iny, [])
      ∧ decode [0xCA] = .ok (.dex, []) ∧ decode [0x88] = .ok (.dey, []) := by decide

theorem test_decode_jumps :
    decode [0x4C, 0x34, 0x12] = .ok (.jmp (.absolute 0x1234), [])
      ∧ decode [0x6C, 0xFF, 0x02] = .ok (.jmp (.indirect 0x02FF), [])
      ∧ decode [0x20, 0x00, 0x90] = .ok (.jsr 0x9000, [])
      ∧ decode [0x60] = .ok (.rts, []) := by decide

theorem test_decode_branches :
    decode [0x10, 0x04] = .ok (.bpl 0x04, []) ∧ decode [0x30, 0x04] = .ok (.bmi 0x04, [])
      ∧ decode [0x50, 0xFE] = .ok (.bvc 0xFE, []) ∧ decode [0x70, 0x10] = .ok (.bvs 0x10, [])
      ∧ decode [0x90, 0x80] = .ok (.bcc 0x80, []) ∧ decode [0xB0, 0x7F] = .ok (.bcs 0x7F, [])
      ∧ decode [0xD0, 0xFB] = .ok (.bne 0xFB, [])
      ∧ decode [0xF0, 0x00] = .ok (.beq 0x00, []) := by decide

theorem test_decode_stack :
    decode [0x48] = .ok (.pha, []) ∧ decode [0x08] = .ok (.php, []) ∧ decode [0x68] = .ok (.pla, [])
      ∧ decode [0x28] = .ok (.plp, []) := by decide

theorem test_decode_flags :
    decode [0x18] = .ok (.clc, []) ∧ decode [0x38] = .ok (.sec, []) ∧ decode [0x58] = .ok (.cli, [])
      ∧ decode [0x78] = .ok (.sei, []) ∧ decode [0xB8] = .ok (.clv, [])
      ∧ decode [0xD8] = .ok (.cld, []) ∧ decode [0xF8] = .ok (.sed, []) := by decide

theorem test_decode_system :
    decode [0x00, 0xAA] = .ok (.brk, [0xAA]) ∧ decode [0x40] = .ok (.rti, [])
      ∧ decode [0xEA] = .ok (.nop, []) ∧ decode [0xFF] = .ok (.illegal 0xFF, []) := by decide

theorem test_decode_truncated :
    decode [] = .error .noBytes ∧ decode [0xA9] = .error (.truncated 0xA9)
      ∧ decode [0x8D, 0x00] = .error (.truncated 0x8D) := by decide

theorem test_encode_inverts_decode_words :
    encode (.lda (.immediate 0x2B)) = [0xA9, 0x2B] ∧ encode (.jmp (.indirect 0x02FF)) = [0x6C, 0xFF, 0x02]
      ∧ encode (.sta (.immediate 0)) = [] := by decide

/-- Bits of the word: the first byte is the least significant (`spec/opcode_table.json`). -/
theorem test_decodeTableWord :
    decodeTableWord 24 0x123420 = some (.jsr 0x1234) ∧ decodeTableWord 8 0x20 = some (.jsr 0)
      ∧ decodeTableWord 8 0xFF = some (.illegal 0xFF) := by decide

/-! ## Single steps -/

/-- The start state of the vectors (`95_test_vectors.md` §2). -/
def start : State :=
  { State.reset with p := Status.load 0x20, iPoll := false, bus := { State.reset.bus with calls := [] } }

/-- Place bytes from outside the machine. -/
def poke : List (Word × Byte) → State → State
  | [], s => s
  | (addr, v) :: t, s => poke t (placeByte addr v s)

/-- Place bytes one after another from an address on. -/
def pokeFrom : Word → List Byte → State → State
  | _, [], s => s
  | addr, v :: t, s => pokeFrom (addr + 1) t (placeByte addr v s)

/-- The state of a vector: code at PC, bytes of memory, and the registers of `s`. -/
def vector (pc : Word) (code : List Byte) (mem : List (Word × Byte)) (s : State) : State :=
  poke mem (pokeFrom pc code (s.setPc pc))

/-- The step ends in a next state that passes the test. -/
def gives (r : Host.Outcome State Fault Refusal) (test : State → Bool) : Bool :=
  match r with
  | .next s => test s
  | .fault _ => false
  | .refused _ => false

/-- The status byte and the cycle counter (the columns `P` and `cycles`). -/
def ends (p : Byte) (cycles : Nat) (s : State) : Bool := s.p.byte == p && s.cycles == cycles

-- Loads, stores, transfers (vectors LS, examples of R200 to R211)
theorem test_LS3_lda_zeroPageX_wraps :
    gives (step (vector 0x0200 [0xB5, 0xFF] [(0x0000, 0x42)] { start with x := 0x01 }))
      (fun t => t.a == 0x42 && ends 0x20 4 t) := by decide
theorem test_LS8_lda_indirectY_crosses :
    gives (step (vector 0x0200 [0xB1, 0x10] [(0x0010, 0xF0), (0x0011, 0x03), (0x0410, 0x05)]
        { start with y := 0x20 })) (fun t => t.a == 0x05 && ends 0x20 6 t) := by decide
theorem test_LS13_ldx_zeroPageY_wraps :
    gives (step (vector 0x0200 [0xB6, 0xF0] [(0x0010, 0x81)] { start with y := 0x20 }))
      (fun t => t.x == 0x81 && ends 0xA0 4 t) := by decide
theorem test_R202_ldy :
    gives (step (vector 0x0200 [0xA0, 0xFF] [] start)) (fun t => t.y == 0xFF && ends 0xA0 2 t) := by
  decide
theorem test_LS10_sta_absoluteX_no_penalty :
    gives (step (vector 0x0200 [0x9D, 0xF0, 0x03] [] { start with a := 0x5A, x := 0x20 }))
      (fun t => t.bus.ram.read 0x410 == 0x5A && ends 0x20 5 t) := by decide
theorem test_R203_sta_mirror :
    gives (step (vector 0x0200 [0x8D, 0x00, 0x08] [] { start with a := 0x42 }))
      (fun t => t.bus.ram.read 0x000 == 0x42 && ends 0x20 4 t) := by decide
theorem test_LS14_stx_zeroPageY :
    gives (step (vector 0x0200 [0x96, 0xFF] [] { start with x := 0x11, y := 0x02 }))
      (fun t => t.bus.ram.read 0x001 == 0x11 && ends 0x20 4 t) := by decide
theorem test_R205_sty :
    gives (step (vector 0x0200 [0x84, 0x20] [] { start with y := 0x05 }))
      (fun t => t.bus.ram.read 0x020 == 0x05 && ends 0x20 3 t) := by decide
theorem test_R206_tax :
    gives (step (vector 0x0200 [0xAA] [] { start with a := 0x80 }))
      (fun t => t.x == 0x80 && ends 0xA0 2 t) := by decide
theorem test_LS17_tay :
    gives (step (vector 0x0200 [0xA8] [] { start with y := 0x55 }))
      (fun t => t.y == 0x00 && ends 0x22 2 t) := by decide
theorem test_R208_txa :
    gives (step (vector 0x0200 [0x8A] [] { start with x := 0x7F }))
      (fun t => t.a == 0x7F && ends 0x20 2 t) := by decide
theorem test_R209_tya :
    gives (step (vector 0x0200 [0x98] [] { start with y := 0xFF }))
      (fun t => t.a == 0xFF && ends 0xA0 2 t) := by decide
theorem test_LS15_tsx :
    gives (step (vector 0x0200 [0xBA] [] start)) (fun t => t.x == 0xFD && ends 0xA0 2 t) := by decide
theorem test_LS16_txs_no_flags :
    gives (step (vector 0x0200 [0x9A] [] start)) (fun t => t.sp == 0x00 && ends 0x20 2 t) := by decide

-- Arithmetic, logic, compare, bit test (vectors AL)
theorem test_AL3_adc_carry_overflow_zero :
    gives (step (vector 0x0200 [0x69, 0x80] [] { start with a := 0x80 }))
      (fun t => t.a == 0x00 && ends 0x63 2 t) := by decide
theorem test_AL11_adc_ignores_decimal :
    gives (step (vector 0x0200 [0x69, 0x09] [] { start with a := 0x09, p := Status.load 0x28 }))
      (fun t => t.a == 0x12 && ends 0x28 2 t) := by decide
theorem test_AL7_sbc_overflow :
    gives (step (vector 0x0200 [0xE9, 0xB0] [] { start with a := 0x50, p := Status.load 0x21 }))
      (fun t => t.a == 0xA0 && ends 0xE0 2 t) := by decide
theorem test_AL9_sbc_borrow_in :
    gives (step (vector 0x0200 [0xE9, 0x00] [] start)) (fun t => t.a == 0xFF && ends 0xA0 2 t) := by
  decide
theorem test_AL12_and :
    gives (step (vector 0x0200 [0x29, 0x0F] [] { start with a := 0xF3 }))
      (fun t => t.a == 0x03 && ends 0x20 2 t) := by decide
theorem test_AL13_ora :
    gives (step (vector 0x0200 [0x09, 0x80] [] { start with a := 0x01 }))
      (fun t => t.a == 0x81 && ends 0xA0 2 t) := by decide
theorem test_AL14_eor :
    gives (step (vector 0x0200 [0x49, 0xAA] [] { start with a := 0xAA }))
      (fun t => t.a == 0x00 && ends 0x22 2 t) := by decide
theorem test_AL17_cmp_sign_of_difference :
    gives (step (vector 0x0200 [0xC9, 0x01] [] { start with a := 0x90 }))
      (fun t => t.a == 0x90 && ends 0xA1 2 t) := by decide
theorem test_AL22_cmp_absoluteX_crosses :
    gives (step (vector 0x0200 [0xDD, 0xFF, 0x02] [] { start with x := 0x01 }))
      (fun t => ends 0x23 5 t) := by decide
theorem test_AL18_cpx_unsigned :
    gives (step (vector 0x0200 [0xE0, 0x80] [] { start with x := 0x7F })) (fun t => ends 0xA0 2 t) := by
  decide
theorem test_AL19_cpy :
    gives (step (vector 0x0200 [0xC4, 0x10] [(0x0010, 0x10)] { start with y := 0x10 }))
      (fun t => ends 0x23 3 t) := by decide
theorem test_AL20_bit :
    gives (step (vector 0x0200 [0x24, 0x10] [(0x0010, 0xC0)] { start with a := 0x01 }))
      (fun t => t.a == 0x01 && ends 0xE2 3 t) := by decide

-- Shifts, rotates, increments, decrements (vectors SH)
theorem test_SH1_asl_accumulator :
    gives (step (vector 0x0200 [0x0A] [] { start with a := 0x80 }))
      (fun t => t.a == 0x00 && ends 0x23 2 t) := by decide
theorem test_SH6_asl_absoluteX_no_penalty :
    gives (step (vector 0x0200 [0x1E, 0xFF, 0x02] [(0x0300, 0x41)] { start with x := 0x01 }))
      (fun t => t.bus.ram.read 0x300 == 0x82 && ends 0xA0 7 t) := by decide
theorem test_R242_lsr :
    gives (step (vector 0x0200 [0x46, 0x10] [(0x0010, 0x03)] start))
      (fun t => t.bus.ram.read 0x010 == 0x01 && ends 0x21 5 t) := by decide
theorem test_R243_rol :
    gives (step (vector 0x0200 [0x2A] [] { start with a := 0x40, p := Status.load 0x21 }))
      (fun t => t.a == 0x81 && ends 0xA0 2 t) := by decide
theorem test_R244_ror :
    gives (step (vector 0x0200 [0x6E, 0x34, 0x12] [(0x1234, 0x02)] { start with p := Status.load 0x21 }))
      (fun t => t.bus.ram.read 0x234 == 0x81 && ends 0xA0 6 t) := by decide
theorem test_SH7_inc_keeps_carry :
    gives (step (vector 0x0200 [0xE6, 0x10] [(0x0010, 0xFF)] { start with p := Status.load 0x21 }))
      (fun t => t.bus.ram.read 0x010 == 0x00 && ends 0x23 5 t) := by decide
theorem test_SH8_dec :
    gives (step (vector 0x0200 [0xD6, 0xFF] [(0x0010, 0x01)] { start with x := 0x11 }))
      (fun t => t.bus.ram.read 0x010 == 0x00 && ends 0x22 6 t) := by decide
theorem test_SH9_inx :
    gives (step (vector 0x0200 [0xE8] [] { start with x := 0xFF }))
      (fun t => t.x == 0x00 && ends 0x22 2 t) := by decide
theorem test_R248_iny :
    gives (step (vector 0x0200 [0xC8] [] start)) (fun t => t.y == 0x01 && ends 0x20 2 t) := by decide
theorem test_R249_dex :
    gives (step (vector 0x0200 [0xCA] [] { start with x := 0x01 }))
      (fun t => t.x == 0x00 && ends 0x22 2 t) := by decide
theorem test_SH10_dey :
    gives (step (vector 0x0200 [0x88] [] start)) (fun t => t.y == 0xFF && ends 0xA0 2 t) := by decide

-- Jumps, subroutines, branches (vectors CT)
theorem test_CT3_jmp_indirect_page_defect :
    gives (step (vector 0x0400 [0x6C, 0xFF, 0x02] [(0x02FF, 0x34), (0x0200, 0x12), (0x0300, 0x99)] start))
      (fun t => t.pc == 0x1234 && ends 0x20 5 t) := by decide
theorem test_R261_jsr :
    gives (step (vector 0x8000 [0x20, 0x00, 0x90] [] start))
      (fun t => t.pc == 0x9000 && t.sp == 0xFB && t.bus.ram.read 0x1FD == 0x80
        && t.bus.ram.read 0x1FC == 0x02 && ends 0x20 6 t) := by decide
theorem test_CT6_rts_wraps :
    gives (step (vector 0x0200 [0x60] [(0x01FC, 0xFF), (0x01FD, 0xFF)] { start with sp := 0xFB }))
      (fun t => t.pc == 0x0000 && t.sp == 0xFD && ends 0x20 6 t) := by decide
theorem test_CT16_bpl_wraps :
    gives (step (vector 0x0004 [0x10, 0xF0] [] start)) (fun t => t.pc == 0xFFF6 && ends 0x20 4 t) := by
  decide
theorem test_CT11_bmi_to_itself :
    gives (step (vector 0x0200 [0x30, 0xFE] [] { start with p := Status.load 0xA0 }))
      (fun t => t.pc == 0x0200 && ends 0xA0 3 t) := by decide
theorem test_CT15_bvc_not_taken :
    gives (step (vector 0x0200 [0x50, 0x04] [] { start with p := Status.load 0x60 }))
      (fun t => t.pc == 0x0202 && ends 0x60 2 t) := by decide
theorem test_CT13_bvs_zero_displacement :
    gives (step (vector 0x0200 [0x70, 0x00] [] { start with p := Status.load 0x60 }))
      (fun t => t.pc == 0x0202 && ends 0x60 3 t) := by decide
theorem test_CT10_bcc_crosses :
    gives (step (vector 0x02F0 [0x90, 0x7F] [] start)) (fun t => t.pc == 0x0371 && ends 0x20 4 t) := by
  decide
theorem test_CT14_bcs :
    gives (step (vector 0x0200 [0xB0, 0x04] [] { start with p := Status.load 0x21 }))
      (fun t => t.pc == 0x0206 && ends 0x21 3 t) := by decide
theorem test_CT8_bne_taken :
    gives (step (vector 0x0200 [0xD0, 0x10] [] start)) (fun t => t.pc == 0x0212 && ends 0x20 3 t) := by
  decide
theorem test_CT9_beq_back_crosses :
    gives (step (vector 0x0200 [0xF0, 0x80] [] { start with p := Status.load 0x22 }))
      (fun t => t.pc == 0x0182 && ends 0x22 4 t) := by decide

-- Stack, flags, system, illegal (vectors SF)
theorem test_SF5_pha_wraps :
    gives (step (vector 0x0200 [0x48] [] { start with a := 0x11, sp := 0x00 }))
      (fun t => t.bus.ram.read 0x100 == 0x11 && t.sp == 0xFF && ends 0x20 3 t) := by decide
theorem test_SF2_php_sets_break :
    gives (step (vector 0x0200 [0x08] [] { start with p := Status.load 0x23 }))
      (fun t => t.bus.ram.read 0x1FD == 0x33 && ends 0x23 3 t) := by decide
theorem test_SF6_pla_wraps :
    gives (step (vector 0x0200 [0x68] [] { start with a := 0x01, sp := 0xFF }))
      (fun t => t.a == 0x00 && t.sp == 0x00 && ends 0x22 4 t) := by decide
theorem test_SF4_plp_ignores_break :
    gives (step (vector 0x0200 [0x28] [(0x01FD, 0xFF)] { start with sp := 0xFC }))
      (fun t => ends 0xEF 4 t && !t.iPoll) := by decide
theorem test_R284_clc :
    gives (step (vector 0x0200 [0x18] [] { start with p := Status.load 0xFF })) (ends 0xEE 2) := by decide
theorem test_SF7_sec :
    gives (step (vector 0x0200 [0x38] [] start)) (ends 0x21 2) := by decide
theorem test_R286_cli_reaches_poll_late :
    gives (step (vector 0x0200 [0x58] [] { start with p := Status.load 0x24, iPoll := true }))
      (fun t => ends 0x20 2 t && t.iPoll) := by decide
theorem test_R287_sei_reaches_poll_late :
    gives (step (vector 0x0200 [0x78] [] start)) (fun t => ends 0x24 2 t && !t.iPoll) := by decide
theorem test_SF8_clv :
    gives (step (vector 0x0200 [0xB8] [] { start with p := Status.load 0x60 })) (ends 0x20 2) := by decide
theorem test_R289_cld :
    gives (step (vector 0x0200 [0xD8] [] { start with p := Status.load 0xFF })) (ends 0xE7 2) := by decide
theorem test_SF9_sed :
    gives (step (vector 0x0200 [0xF8] [] start)) (ends 0x28 2) := by decide
theorem test_SF10_brk :
    gives (step (vector 0x0200 [0x00, 0xAA] [(0xFFFE, 0x00), (0xFFFF, 0x90)] start))
      (fun t => t.pc == 0x9000 && t.sp == 0xFA && t.bus.ram.read 0x1FC == 0x02
        && t.bus.ram.read 0x1FB == 0x30 && ends 0x24 7 t) := by decide
theorem test_SF11_rti :
    gives (step (vector 0x0200 [0x40] [(0x01FB, 0xC3), (0x01FC, 0x34), (0x01FD, 0x12)]
        { start with sp := 0xFA })) (fun t => t.pc == 0x1234 && t.sp == 0xFD && ends 0xE3 6 t) := by
  decide
theorem test_SF12_nop :
    gives (step (vector 0x0200 [0xEA] [] start)) (fun t => t.pc == 0x0201 && ends 0x20 2 t) := by decide
theorem test_SF13_illegal :
    step (vector 0x0200 [0xFF] [] { start with a := 0x12 })
      = .fault (.illegalOpcode 0xFF 0x0200 (vector 0x0200 [0xFF] [] { start with a := 0x12 })) := rfl

-- Errors, interrupts, reset, power-on (vectors LS18, IE1, IE3 to IE6, rules R350, R62)
theorem test_LS18_store_to_unregistered :
    step (vector 0x0200 [0x8D, 0x00, 0x20] [] { start with a := 0x01 })
      = .fault (.addressError 0x2000 .write
          (vector 0x0200 [0x8D, 0x00, 0x20] [] { start with a := 0x01 })) := rfl
theorem test_IE1_irq :
    gives (step (poke [(0xFFFE, 0x00), (0xFFFF, 0xE0)]
        { start with pc := 0xC123, p := Status.load 0x21, irqLine := true }))
      (fun t => t.pc == 0xE000 && t.sp == 0xFA && t.iPoll && t.bus.ram.read 0x1FD == 0xC1
        && t.bus.ram.read 0x1FB == 0x21 && ends 0x25 7 t) := by decide
theorem test_IE3_nmi_before_irq :
    gives (step (poke [(0xFFFA, 0x00), (0xFFFB, 0xA0)] { start with
        pc := 0x8002, p := Status.load 0x24, nmiPending := true, irqLine := true }))
      (fun t => t.pc == 0xA000 && !t.nmiPending && t.bus.ram.read 0x1FB == 0x24 && ends 0x24 7 t) := by
  decide
theorem test_IE4_reset_before_nmi :
    gives (step (poke [(0xFFFC, 0x00), (0xFFFD, 0xC0)] { start with
        resetPending := true, nmiPending := true, sp := 0x80, a := 0x11, cycles := 4 }))
      (fun t => t.pc == 0xC000 && t.sp == 0x7D && t.a == 0x11 && !t.nmiPending && !t.resetPending
        && ends 0x24 0 t) := by decide
theorem test_IE6_irq_stack_wraps :
    gives (step (poke [(0xFFFE, 0x00), (0xFFFF, 0xE0)]
        { start with pc := 0xC123, sp := 0x00, irqLine := true }))
      (fun t => t.sp == 0xFD && t.bus.ram.read 0x100 == 0xC1 && t.bus.ram.read 0x1FF == 0x23) := by
  decide
theorem test_reset_is_a_powerOn :
    powerOn
      { a := 0, x := 0, y := 0, c := false, z := false, d := false, v := false, n := false, ram := []
        video := ⟨false, []⟩, io := ⟨false, []⟩, cart := resetCart, inputs := []
        cfg := Config.default } = .ok State.reset := by decide
theorem test_snapshot_of_reset :
    snapshot State.reset
      = { a := 0, x := 0, y := 0, pc := 0x8000, sp := 0xFD, p := 0x24, cycles := 0 } := by decide
theorem test_absent_inputs_are_inert :
    nmiEdge { start with cfg := { start.cfg with interruptInputs := .absent } }
      = { start with cfg := { start.cfg with interruptInputs := .absent } } := by decide

/-- The word placed by `withFetchWord` is the next instruction. -/
theorem test_withFetchWord :
    gives (step (State.reset.withFetchWord 16 0x2BA9)) (fun t => t.a == 0x2B && t.pc == 0x8002) := by
  decide

/-! ## Witnesses: a state and operands that meet the hypotheses of each statement that has any -/

/-- The piece completes. -/
def isOk {α : Type} : Access α → Bool
  | .ok _ _ => true
  | .err _ _ => false

/-- A bus access of the piece fails. -/
def isErr {α : Type} (r : Access α) : Bool := !isOk r

/-- The instruction exists and its operand can be read. -/
def readable (mk : Operand → Instr) (o : Operand) (s : State) : Bool :=
  (mk o).wf && isOk (operandRead (mk o) o s)

/-- The instruction exists and its operand cannot be read. -/
def unreadable (mk : Operand → Instr) (o : Operand) (s : State) : Bool :=
  (mk o).wf && isErr (operandRead (mk o) o s)

/-- The step ends in an error. -/
def faults (r : Host.Outcome State Fault Refusal) : Bool :=
  match r with
  | .next _ => false
  | .fault _ => true
  | .refused _ => false

/-- Any next state. -/
def completed (r : Host.Outcome State Fault Refusal) : Bool := gives r fun _ => true

/-- `completed` is the hypothesis `exec i s = .next t` of the statements. -/
theorem completed_next {r : Host.Outcome State Fault Refusal} (h : completed r = true) :
    ∃ t, r = .next t := by
  cases r with
  | next t => exact ⟨t, rfl⟩
  | fault x => cases h
  | refused x => cases h

/-- The indexed modes cross a page here, and 0x2000 has no owner. -/
def indexed20 : State := { start with x := 0x20, y := 0x20 }

/-- The hypotheses of `FetchErrorEndsStep`: PC in the window of an unregistered collaborator. -/
def FetchFails : Prop :=
  State.quiet { start with pc := 0x2000 } ∧ isErr (fetch { start with pc := 0x2000 }) = true

theorem fetchFails : FetchFails := ⟨⟨rfl, rfl, rfl⟩, by decide⟩

theorem witness_DecodeEncodeRoundTrip : (Instr.adc (.absoluteX 0x1234)).wf = true := by decide

theorem witness_DecodingLosesNoBit :
    decode [0x7D, 0x34, 0x12, 0xEA] = .ok (.adc (.absoluteX 0x1234), [0xEA])
      ∧ operandCountOf 0x7D ≤ [(0x34 : Byte), 0x12].length
      ∧ [(0x34 : Byte)].length < operandCountOf 0x7D := by decide

theorem witness_IllegalEntriesAreTheListed :
    (0x02 : Byte) ∈ illegalOpcodes ∧ (0xA9 : Byte) ∉ illegalOpcodes := by decide

theorem witness_RamWindowIsMirrored :
    (0x1FFF : Word).toNat < 0x2000 ∧ start.wf
      ∧ memWrite 0x1FFF 0x42 start
        = .ok () { start with bus := { start.bus with ram := [(0x7FF, 0x42)] } } := by decide

theorem witness_WindowsForwardToTheirOwner :
    (0x2000 ≤ (0x2000 : Word).toNat ∧ (0x3FFF : Word).toNat < 0x4000)
      ∧ (0x4000 ≤ (0x4000 : Word).toNat ∧ (0x401F : Word).toNat < 0x4020)
      ∧ 0x4020 ≤ (0x4020 : Word).toNat := by decide

/-- Unregistered; registered and answering NoOwner by name; registered and drawing NoOwner. -/
theorem witness_AddressErrorExactlyWithoutOwner :
    isErr (memRead 0x2000 start) = true ∧ isErr (memWrite 0x401F 0x01 start) = true
      ∧ isErr (memRead 0x8000
          { start with bus := { start.bus with cart := ⟨true, [(0x8000, .noOwner)]⟩ } }) = true
      ∧ isErr (memRead 0x8000 { start with bus := { start.bus with inputs := [⟨false, 0⟩] } }) = true
      ∧ isErr (memWrite 0x8000 0x01 { start with bus := { start.bus with inputs := [⟨false, 0⟩] } })
        = true := by decide

theorem witness_ForwardedWritesAreRecorded :
    target 0x8000 = .device .cart 0x8000 ∧ (start.bus.collaborator .cart).registered = true
      ∧ target 0x3FFF = .device .video 0x0007 ∧ (start.bus.collaborator .video).registered = false := by
  decide

theorem witness_ResolverCrossesOnlyWhenIndexed :
    resolve (.absoluteX 0x02F0) indexed20 = .ok ⟨.memory 0x0310, true⟩ indexed20
      ∧ resolve (.zeroPageX 0xF0) indexed20 = .ok ⟨.memory 0x0010, false⟩ indexed20 := by decide

theorem witness_LoadsLoadAndSetZN :
    FetchFails
      ∧ readable .lda (.absoluteX 0x02F0) indexed20 = true ∧ unreadable .lda (.absolute 0x2000) start = true
      ∧ readable .ldx (.zeroPageY 0xF0) indexed20 = true ∧ unreadable .ldx (.absolute 0x2000) start = true
      ∧ readable .ldy (.immediate 0x00) start = true ∧ unreadable .ldy (.absolute 0x2000) start = true :=
  ⟨fetchFails, by decide⟩

/-- Stores that complete and one whose write fails. -/
theorem witness_StoresWriteOnce :
    FetchFails
      ∧ ((Instr.sta (.absoluteX 0x02F0)).wf = true
        ∧ operandPlace (.sta (.absoluteX 0x02F0)) (.absoluteX 0x02F0) indexed20
          = .ok ⟨.memory 0x0310, true⟩ (indexed20.advance 3)
        ∧ isOk (memWrite 0x0310 indexed20.a (indexed20.advance 3)) = true)
      ∧ ((Instr.stx (.absolute 0x2000)).wf = true
        ∧ operandPlace (.stx (.absolute 0x2000)) (.absolute 0x2000) start
          = .ok ⟨.memory 0x2000, false⟩ (start.advance 3)
        ∧ isErr (memWrite 0x2000 start.x (start.advance 3)) = true)
      ∧ ((Instr.sty (.zeroPageX 0xF0)).wf = true
        ∧ operandPlace (.sty (.zeroPageX 0xF0)) (.zeroPageX 0xF0) indexed20
          = .ok ⟨.memory 0x0010, false⟩ (indexed20.advance 2)
        ∧ isOk (memWrite 0x0010 indexed20.y (indexed20.advance 2)) = true) :=
  ⟨fetchFails, by decide⟩

/-- Both ways not to be refused: decimal mode ignored with D = 1, and D = 0. -/
theorem witness_AdcAddsWithCarry :
    FetchFails
      ∧ start.cfg.decimalMode = .ignored ∧ (Status.load 0x28).d = true
      ∧ readable .adc (.indirectY 0x10) { start with p := Status.load 0x28 } = true
      ∧ start.p.d = false ∧ unreadable .adc (.absolute 0x2000) start = true :=
  ⟨fetchFails, by decide⟩

theorem witness_SbcSubtractsWithBorrow :
    FetchFails
      ∧ start.cfg.decimalMode = .ignored ∧ (Status.load 0x28).d = true
      ∧ readable .sbc (.absoluteX 0x02F0) { indexed20 with p := Status.load 0x28 } = true
      ∧ start.p.d = false ∧ unreadable .sbc (.absolute 0x2000) start = true :=
  ⟨fetchFails, by decide⟩

/-- A state of an instance with `DECIMAL_MODE = refuse` and D = 1. -/
def refusing : State :=
  { start with p := Status.load 0x28, cfg := { start.cfg with decimalMode := .refuse } }

theorem witness_DecimalModeRefuses :
    refusing.cfg.decimalMode = .refuse ∧ refusing.p.d = true := by decide

theorem witness_DecimalFlagIsIgnored :
    start.cfg.decimalMode = .ignored ∧ Instr.adc (.immediate 0x09) ≠ .php
      ∧ Instr.adc (.immediate 0x09) ≠ .brk ∧ Instr.adc (.immediate 0x09) ≠ .sed
      ∧ Instr.adc (.immediate 0x09) ≠ .cld ∧ Instr.adc (.immediate 0x09) ≠ .plp
      ∧ Instr.adc (.immediate 0x09) ≠ .rti := by decide

theorem witness_LogicCombinesBits :
    FetchFails
      ∧ readable .and (.indirectX 0x10) start = true ∧ unreadable .and (.absolute 0x2000) start = true
      ∧ readable .ora (.absoluteY 0x02F0) indexed20 = true ∧ unreadable .ora (.absolute 0x401F) start = true
      ∧ readable .eor (.zeroPage 0x10) start = true ∧ unreadable .eor (.absolute 0x4000) start = true :=
  ⟨fetchFails, by decide⟩

theorem witness_ComparesSetCarryZeroNegative :
    FetchFails
      ∧ readable .cmp (.absoluteX 0x02F0) indexed20 = true ∧ unreadable .cmp (.absolute 0x2000) start = true
      ∧ readable .cpx (.immediate 0x80) start = true ∧ unreadable .cpx (.absolute 0x2000) start = true
      ∧ readable .cpy (.zeroPage 0x10) start = true ∧ unreadable .cpy (.absolute 0x2000) start = true :=
  ⟨fetchFails, by decide⟩

theorem witness_BitTestsMemory :
    FetchFails
      ∧ readable .bit (.absolute 0x0300) start = true ∧ unreadable .bit (.absolute 0x2000) start = true :=
  ⟨fetchFails, by decide⟩

/-- The place, the read and the write of a read-modify-write that completes. -/
def modifiable (mk : Operand → Instr) (o : Operand) (ea : Word) (s : State) : Prop :=
  (mk o).wf = true ∧ o ≠ .accumulator
    ∧ operandPlace (mk o) o s = .ok ⟨.memory ea, false⟩ (s.advance (mk o).length)
    ∧ isOk (memRead ea (s.advance (mk o).length)) = true
    ∧ isOk (memWrite ea 0x00 (s.advance (mk o).length)) = true

/-- A read-modify-write whose read fails, and one whose write fails (a draw that owns the read and one
that does not own the write). -/
theorem witness_ModifyFails :
    isErr (memRead 0x2000 (start.advance 3)) = true
      ∧ isErr ((memRead 0x8000
          { start with bus := { start.bus with inputs := [⟨true, 0x01⟩, ⟨false, 0⟩] } }).bind
        fun v w => memWrite 0x8000 v w) = true
      ∧ isOk (memRead 0x8000
          { start with bus := { start.bus with inputs := [⟨true, 0x01⟩, ⟨false, 0⟩] } }) = true := by
  decide

theorem witness_ShiftsMoveBitsThroughCarry :
    FetchFails
      ∧ modifiable .asl (.absolute 0x0300) 0x0300 start ∧ modifiable .lsr (.zeroPage 0x10) 0x0010 start
      ∧ modifiable .rol (.zeroPageX 0x10) 0x0010 start ∧ modifiable .ror (.absoluteX 0x02F0) 0x02F0 start :=
  ⟨fetchFails, by unfold modifiable; decide⟩

theorem witness_IncDecModifyMemory :
    FetchFails
      ∧ modifiable .inc (.zeroPage 0x10) 0x0010 start
      ∧ modifiable .dec (.absoluteX 0x02F0) 0x02F0 start :=
  ⟨fetchFails, by unfold modifiable; decide⟩

theorem witness_JmpJumpsToTheResolvedAddress :
    FetchFails ∧ (Instr.jmp (.indirect 0x02FF)).wf = true
      ∧ operandPlace (.jmp (.indirect 0x02FF)) (.indirect 0x02FF) start
        = .ok ⟨.memory 0x0000, false⟩ (start.advance 3)
      ∧ isErr (operandPlace (.jmp (.indirect 0x2000)) (.indirect 0x2000) start) = true :=
  ⟨fetchFails, by decide⟩

theorem witness_JsrPushesItsLastByteAddress : FetchFails := fetchFails

theorem witness_BranchesFollowTheirFlag : FetchFails := fetchFails

theorem witness_SubroutineCallReturns : start.wf := by decide

/-- A board whose IRQ vector is 0x9000, and one whose cartridge does not own it. -/
def vectored : State := poke [(0xFFFA, 0x00), (0xFFFB, 0xA0), (0xFFFE, 0x00), (0xFFFF, 0x90)] start
def vectorless : State := { start with bus := { start.bus with cart := ⟨false, []⟩ } }

/-- The state in which a trap entry reads its vector. -/
def entering (pc : Word) (pushed : Byte) (s : State) : State :=
  { s with
    sp := s.sp - 3
    p := { s.p with i := true }
    bus := s.bus.setRam (pushedRam s.bus.ram s.sp [hi8 pc, lo8 pc, pushed]) }

theorem witness_BrkTakesTheTrap :
    isOk (read16 0xFFFE (entering (vectored.pc + 2) (vectored.p.byte ||| 0x30) vectored)) = true
      ∧ isErr (read16 0xFFFE
        (entering (vectorless.pc + 2) (vectorless.p.byte ||| 0x30) vectorless)) = true := by decide

/-- PC at the last address of the RAM window at which two bytes fit. -/
def atEnd : State := vector 0x1FFE [0xA9, 0x2B] [] start

theorem witness_StepRunsDecodedInstruction :
    atEnd.quiet ∧ readBytes (Instr.lda (.immediate 0x2B)).length atEnd.pc atEnd = .ok [0xA9, 0x2B] atEnd
      ∧ decode [0xA9, 0x2B] = .ok (.lda (.immediate 0x2B), [])
      ∧ (Instr.lda (.immediate 0x2B)).wf = true
      ∧ atEnd.pc.toNat + (Instr.lda (.immediate 0x2B)).length ≤ 0x2000
      ∧ ∀ k, k < (Instr.lda (.immediate 0x2B)).length →
          (encode (.lda (.immediate 0x2B)))[k]?
            = some (atEnd.bus.ram.read ((atEnd.pc.toNat + k) % 0x800)) :=
  ⟨⟨rfl, rfl, rfl⟩, by decide⟩

/-- The same statement's state without interrupt inputs, both latches set. -/
theorem witness_StepRunsDecodedInstruction_absent :
    ({ start with cfg := ⟨.ignored, .absent⟩, nmiPending := true, irqLine := true, iPoll := false }
        : State).cfg.interruptInputs = .absent
      ∧ ({ start with cfg := ⟨.ignored, .absent⟩, nmiPending := true, irqLine := true, iPoll := false }
        : State).resetPending = false := by decide

theorem witness_ResetSequence :
    ({ start with resetPending := true } : State).resetPending = true
      ∧ isOk (read16 0xFFFC { start with resetPending := true }) = true
      ∧ ({ vectorless with resetPending := true } : State).resetPending = true
      ∧ isErr (read16 0xFFFC { vectorless with resetPending := true }) = true := by decide

theorem witness_InterruptEntry :
    ({ vectored with nmiPending := true } : State).resetPending = false
      ∧ ({ vectored with nmiPending := true } : State).cfg.interruptInputs = .present
      ∧ isOk (read16 0xFFFA (entering vectored.pc (vectored.p.byte ||| 0x20)
        { vectored with nmiPending := true })) = true
      ∧ isErr (read16 0xFFFA (entering vectorless.pc (vectorless.p.byte ||| 0x20)
        { vectorless with nmiPending := true })) = true
      ∧ ({ vectored with irqLine := true } : State).nmiPending = false
      ∧ ({ vectored with irqLine := true } : State).iPoll = false
      ∧ isOk (read16 0xFFFE (entering vectored.pc (vectored.p.byte ||| 0x20)
        { vectored with irqLine := true })) = true
      ∧ isErr (read16 0xFFFE (entering vectorless.pc (vectorless.p.byte ||| 0x20)
        { vectorless with irqLine := true })) = true := by decide

theorem witness_TrapReturns :
    vectored.wf ∧ completed (exec .brk vectored) = true
      ∧ completed (enterInterrupt .nmi vectored) = true
      ∧ completed (enterInterrupt .irq vectored) = true := by decide

theorem witness_IllegalOpcodeChangesNothing :
    (vector 0x1FFF [0xFF] [] start).quiet
      ∧ memRead 0x1FFF (vector 0x1FFF [0xFF] [] start) = .ok 0xFF (vector 0x1FFF [0xFF] [] start)
      ∧ (0xFF : Byte) ∈ illegalOpcodes ∧ (vector 0x1FFF [0xFF] [] start).pc.toNat < 0x2000 :=
  ⟨⟨rfl, rfl, rfl⟩, by decide⟩

/-- An error of a reset, of an ordinary instruction, and of a BRK that has pushed. -/
theorem witness_ErrorsRollBackTheStep :
    faults (step { vectorless with resetPending := true }) = true
      ∧ (vector 0x0200 [0xAD, 0x00, 0x20] [] start).quiet
      ∧ (∀ w, fetch (vector 0x0200 [0xAD, 0x00, 0x20] [] start) ≠ .ok .brk w)
      ∧ faults (step (vector 0x0200 [0xAD, 0x00, 0x20] [] start)) = true
      ∧ faults (step (vector 0x0200 [0x00] [] vectorless)) = true := by
  refine ⟨by decide, ⟨rfl, rfl, rfl⟩, fun w h => ?_, by decide, by decide⟩
  have hi : fetch (vector 0x0200 [0xAD, 0x00, 0x20] [] start)
      = .ok (.lda (.absolute 0x2000)) (vector 0x0200 [0xAD, 0x00, 0x20] [] start) := by decide
  rw [hi] at h
  cases h

theorem witness_StepRefusesOnlyDecimal :
    step (vector 0x0200 [0x69, 0x09] [] refusing) = .refused .decimalMode := rfl

theorem witness_StepKeepsInvariant :
    (vector 0x0200 [0x8D, 0x05, 0x18] [] start).wf
      ∧ completed (step (vector 0x0200 [0x8D, 0x05, 0x18] [] start)) = true := by decide

theorem witness_ReachableStatesMeetInvariant : Reachable State.reset :=
  .powerOn
    { a := 0, x := 0, y := 0, c := false, z := false, d := false, v := false, n := false, ram := []
      video := ⟨false, []⟩, io := ⟨false, []⟩, cart := resetCart, inputs := []
      cfg := Config.default }
    State.reset (by decide) test_reset_is_a_powerOn

/-- The other premises of the same statement: a driver's operation that gives a next state, and an error. -/
theorem witness_ReachableStatesMeetInvariant_steps :
    start.wf ∧ drive (.setIrq true) start = .next { start with irqLine := true }
      ∧ (vector 0x0200 [0xFF] [] start).wf
      ∧ faults (step (vector 0x0200 [0xFF] [] start)) = true :=
  ⟨by decide, rfl, by decide, by decide⟩

theorem witness_CyclesCharged :
    completed (step { start with resetPending := true }) = true
      ∧ completed (step { vectored with nmiPending := true }) = true
      ∧ ({ vectored with nmiPending := true } : State).nmiRecognised = true
      ∧ completed (step { vectored with irqLine := true }) = true
      ∧ ({ vectored with irqLine := true } : State).irqRecognised = true
      ∧ (vector 0x0200 [0xEA] [] start).quiet
      ∧ completed (step (vector 0x0200 [0xEA] [] start)) = true :=
  ⟨by decide, by decide, by decide, by decide, by decide, ⟨rfl, rfl, rfl⟩, by decide⟩

theorem witness_PollFollowsTheMask :
    (vector 0x0200 [0x78] [] start).quiet
      ∧ fetch (vector 0x0200 [0x78] [] start) = .ok .sei (vector 0x0200 [0x78] [] start)
      ∧ completed (step (vector 0x0200 [0x78] [] start)) = true
      ∧ completed (step { start with resetPending := true }) = true
      ∧ faults (step (vector 0x0200 [0xFF] [] start)) = true :=
  ⟨⟨rfl, rfl, rfl⟩, by decide⟩

/-- CLI with I = 1 and the line asserted, and SEI with I = 0 and `i_poll` = 1 when the line is
asserted. -/
def masked : State := { start with p := Status.load 0x24, iPoll := true, irqLine := true }
def unmasked : State := { start with iPoll := true, irqLine := true }

theorem witness_MaskChangesReachThePollLate :
    (vector 0x0200 [0x58] [] masked).quiet
      ∧ fetch (vector 0x0200 [0x58] [] masked) = .ok .cli (vector 0x0200 [0x58] [] masked)
      ∧ masked.p.i = true ∧ completed (step (vector 0x0200 [0x58] [] masked)) = true
      ∧ (vector 0x0200 [0x78] [] unmasked).quiet
      ∧ fetch (vector 0x0200 [0x78] [] unmasked) = .ok .sei (vector 0x0200 [0x78] [] unmasked)
      ∧ unmasked.p.i = false ∧ unmasked.cfg.interruptInputs = .present ∧ unmasked.irqLine = true
      ∧ completed (step (vector 0x0200 [0x78] [] unmasked)) = true :=
  ⟨⟨rfl, rfl, rfl⟩, by decide, rfl, by decide, ⟨rfl, rfl, rfl⟩, by decide⟩

/-- An instruction that completes and changes every flag, and one that changes A. -/
theorem witness_FlagsChangeOnlyByTheirWriters :
    gives (exec .plp (vector 0x0200 [] [(0x01FE, 0xFF)] start)) (fun t => t.p.byte == 0xEF) = true := by
  decide

theorem witness_RegistersChangeOnlyByTheirWriters :
    gives (exec (.lda (.immediate 0x2B)) start) (fun t => t.a == 0x2B) = true
      ∧ gives (exec .tsx start) (fun t => t.x == 0xFD) = true
      ∧ gives (exec .iny start) (fun t => t.y == 0x01) = true
      ∧ gives (exec .pha start) (fun t => t.sp == 0xFC) = true := by decide

theorem witness_PcAdvancesByTheLength : completed (exec (.lda (.absolute 0x0300)) start) = true := by
  decide

theorem witness_NonStoringInstructionsKeepRam :
    completed (exec (.asl .accumulator) start) = true
      ∧ Instr.asl .accumulator ∉ [Instr.pha, .php, .brk] := by decide

theorem witness_StoringInstructionsTouchOneByte :
    Instr.sta (.absoluteX 0x02F0) ∈ [Instr.sta (.absoluteX 0x02F0)]
      ∧ operandPlace (.sta (.absoluteX 0x02F0)) (.absoluteX 0x02F0) indexed20
        = .ok ⟨.memory 0x0310, true⟩ (indexed20.advance 3)
      ∧ completed (exec (.sta (.absoluteX 0x02F0)) indexed20) = true
      ∧ target 0x0310 = .ram 0x310 ∧ target 0x0310 ≠ .ram 0x311 := by decide

theorem witness_PushesTouchOnlyTheStack :
    completed (exec .pha start) = true ∧ completed (exec .php start) = true
      ∧ completed (exec (.jsr 0x9000) start) = true ∧ completed (exec .brk vectored) = true
      ∧ 0x1FA ≠ 0x100 + start.sp.toNat ∧ 0x1FA ≠ 0x100 + (start.sp - 1).toNat
      ∧ 0x1FA ≠ 0x100 + (start.sp - 2).toNat := by decide

/-- The indexed and the plain form, on a cartridge that draws an owned read and an owned write. -/
theorem witness_ReadModifyWriteCallsTwice :
    let s : State := { indexed20 with
      bus := { indexed20.bus with inputs := [⟨true, 0x01⟩, ⟨true, 0x00⟩] } }
    target 0x8010 = .device .cart 0x8010
      ∧ operandPlace (.inc (.absoluteX 0x7FF0)) (.absoluteX 0x7FF0) s
        = .ok ⟨.memory 0x8010, true⟩ (s.advance 3)
      ∧ completed (exec (.inc (.absoluteX 0x7FF0)) s) = true
      ∧ operandPlace (.inc (.absolute 0x8010)) (.absolute 0x8010) s
        = .ok ⟨.memory 0x8010, false⟩ (s.advance 3)
      ∧ completed (exec (.inc (.absolute 0x8010)) s) = true := by
  decide

/-- A power-on whose vector reads complete, and one whose cartridge is not registered. -/
theorem witness_PowerOnValues :
    isOk (read16 0xFFFC (PowerOn.initial
      { a := 0, x := 0, y := 0, c := false, z := false, d := false, v := false, n := false, ram := []
        video := ⟨false, []⟩, io := ⟨false, []⟩, cart := resetCart, inputs := []
        cfg := Config.default })) = true
      ∧ isErr (read16 0xFFFC (PowerOn.initial
      { a := 0, x := 0, y := 0, c := false, z := false, d := false, v := false, n := false, ram := []
        video := ⟨false, []⟩, io := ⟨false, []⟩, cart := ⟨false, []⟩, inputs := []
        cfg := Config.default })) = true := by decide

theorem witness_DriverOperations :
    start.cfg.interruptInputs = .present
      ∧ ({ start with cfg := ⟨.ignored, .absent⟩ } : State).cfg.interruptInputs = .absent
      ∧ ({ start with bus := start.bus.setRam [(0x7FF, 0x42)] } : State).cfg = start.cfg
      ∧ ({ start with bus := start.bus.setRam [(0x7FF, 0x42)] } : State).bus
        = { start.bus with ram := [(0x7FF, 0x42)] } := by decide

end Sys2Proof.Tests
end

section
/-! SUPPORT. The byte of P and its pushed forms (R55, R56): a byte as its eight bits, what number they
make, what `|||` and `&&&` do to them, and what loading P takes of them. -/

namespace Sys2Proof.Machine

section Bits

variable (b7 b6 b5 b4 b3 b2 b1 b0 : Bool)

/-- Library lemmas speak of bits appended one at a time. -/
theorem byteOfBits_eq_concat :
    byteOfBits b7 b6 b5 b4 b3 b2 b1 b0 =
      (((((((BitVec.ofBool b7).concat b6).concat b5).concat b4).concat b3).concat b2).concat b1).concat
        b0 := rfl

theorem toNat_byteOfBits :
    (byteOfBits b7 b6 b5 b4 b3 b2 b1 b0).toNat =
      128 * b7.toNat + 64 * b6.toNat + 32 * b5.toNat + 16 * b4.toNat + 8 * b3.toNat + 4 * b2.toNat
        + 2 * b1.toNat + b0.toNat := by
  simp only [byteOfBits_eq_concat, BitVec.toNat_concat, BitVec.toNat_ofBool]
  omega

theorem getLsbD_byteOfBits {k : Nat} (hk : k < 8) :
    (byteOfBits b7 b6 b5 b4 b3 b2 b1 b0).getLsbD k = [b0, b1, b2, b3, b4, b5, b6, b7][k] := by
  rw [byteOfBits_eq_concat]
  interval_cases k <;> simp [BitVec.getLsbD_concat, -BitVec.getLsbD_eq_getElem]

/-- Only six of the eight bits reach P: bits 4 and 5 are ignored (R56). -/
theorem Status.load_byteOfBits :
    Status.load (byteOfBits b7 b6 b5 b4 b3 b2 b1 b0) =
      { c := b0, z := b1, i := b2, d := b3, v := b6, n := b7 } := by
  simp [Status.load, getLsbD_byteOfBits, -BitVec.getLsbD_eq_getElem]

variable (c7 c6 c5 c4 c3 c2 c1 c0 : Bool)

theorem byteOfBits_or_byteOfBits :
    byteOfBits b7 b6 b5 b4 b3 b2 b1 b0 ||| byteOfBits c7 c6 c5 c4 c3 c2 c1 c0 =
      byteOfBits (b7 || c7) (b6 || c6) (b5 || c5) (b4 || c4) (b3 || c3) (b2 || c2) (b1 || c1)
        (b0 || c0) := by
  refine BitVec.eq_of_getLsbD_eq fun k hk => ?_
  simp only [BitVec.getLsbD_or, getLsbD_byteOfBits, hk]
  interval_cases k <;> rfl

theorem byteOfBits_and_byteOfBits :
    byteOfBits b7 b6 b5 b4 b3 b2 b1 b0 &&& byteOfBits c7 c6 c5 c4 c3 c2 c1 c0 =
      byteOfBits (b7 && c7) (b6 && c6) (b5 && c5) (b4 && c4) (b3 && c3) (b2 && c2) (b1 && c1)
        (b0 && c0) := by
  refine BitVec.eq_of_getLsbD_eq fun k hk => ?_
  simp only [BitVec.getLsbD_and, getLsbD_byteOfBits, hk]
  interval_cases k <;> rfl

end Bits

theorem byteOfBits_getLsbD (v : Byte) :
    byteOfBits (v.getLsbD 7) (v.getLsbD 6) (v.getLsbD 5) (v.getLsbD 4) (v.getLsbD 3) (v.getLsbD 2)
      (v.getLsbD 1) (v.getLsbD 0) = v := by
  refine BitVec.eq_of_getLsbD_eq fun k hk => ?_
  rw [getLsbD_byteOfBits (hk := hk)]
  interval_cases k <;> rfl

/-- The pushed form is the byte of P with `brk` in bit 4 (R55). -/
theorem Status.pushed_eq_byteOfBits (p : Status) (brk : Bool) :
    p.pushed brk = byteOfBits p.n p.v true brk p.d p.i p.z p.c := by
  have hBit5 : (0x20 : Byte) = byteOfBits false false true false false false false false := rfl
  have hBit4 : (if brk then 0x10 else 0x00 : Byte) =
      byteOfBits false false false brk false false false false := by
    cases brk <;> rfl
  rw [Status.pushed, Status.byte, hBit5, hBit4]
  simp [byteOfBits_or_byteOfBits]

theorem Status.toNat_byte (p : Status) :
    p.byte.toNat =
      128 * p.n.toNat + 64 * p.v.toNat + 32 + 8 * p.d.toNat + 4 * p.i.toNat + 2 * p.z.toNat
        + p.c.toNat := by
  simp [Status.byte, toNat_byteOfBits]

theorem Status.toNat_pushed (p : Status) (brk : Bool) :
    (p.pushed brk).toNat = p.byte.toNat + 16 * brk.toNat := by
  rw [Status.pushed_eq_byteOfBits, toNat_byteOfBits, Status.toNat_byte, Bool.toNat_true]
  omega

@[simp] theorem Status.load_pushed (p : Status) (brk : Bool) : Status.load (p.pushed brk) = p := by
  rw [Status.pushed_eq_byteOfBits, Status.load_byteOfBits]

/-- B reads 0 and U reads 1, whatever byte was loaded (R48, R49). -/
theorem Status.byte_load (v : Byte) : (Status.load v).byte = (v &&& 0xCF) ||| 0x20 := by
  have hMask : (0xCF : Byte) = byteOfBits true true false false true true true true := rfl
  have hBit5 : (0x20 : Byte) = byteOfBits false false true false false false false false := rfl
  conv_rhs => rw [← byteOfBits_getLsbD v]
  rw [hMask, hBit5, byteOfBits_and_byteOfBits, byteOfBits_or_byteOfBits]
  simp [Status.byte, Status.load]

/-- Settles O33: a byte is the number and the list of its eight bits, and the pushed form is the byte of
P with `brk` in bit 4, a bit that loading does not read. -/
theorem statusByteForms : Obligations.StatusByteForms :=
  ⟨fun p brk => ⟨p.toNat_byte, p.toNat_pushed brk, p.load_pushed brk⟩,
    fun v => ⟨rfl, Status.byte_load v⟩⟩

end Sys2Proof.Machine
end

section
/-! SUPPORT. The address decode on numbers (R73 to R77): which window an address is in, and the mirrored
index of the RAM and of the video registers as a remainder. -/

namespace Sys2Proof.Machine

/-- The four windows of the RAM name the same bytes: the index is the address modulo 2048 (R74). -/
theorem ramIndex_eq_mod (addr : Word) : (addr &&& 0x07FF).toNat = addr.toNat % 0x800 := by
  rw [BitVec.toNat_and]
  exact Nat.and_two_pow_sub_one_eq_mod addr.toNat 11

/-- The eight video registers repeat through their window: the index is the address modulo 8 (R75). -/
theorem videoRegister_eq_mod (addr : Word) :
    addr &&& 0x0007 = BitVec.ofNat 16 (addr.toNat % 8) := by
  have hLt : addr.toNat % 8 < 2 ^ 16 := by omega
  refine BitVec.eq_of_toNat_eq ?_
  rw [BitVec.toNat_ofNat, Nat.mod_eq_of_lt hLt, BitVec.toNat_and]
  exact Nat.and_two_pow_sub_one_eq_mod addr.toNat 3

theorem target_video {addr : Word} (h : 0x2000 ≤ addr.toNat) (h' : addr.toNat < 0x4000) :
    target addr = .device .video (BitVec.ofNat 16 (addr.toNat % 8)) := by
  have hRam : ¬ addr < 0x2000 := by bv_omega
  have hVideo : addr < 0x4000 := by bv_omega
  rw [target, if_neg hRam, if_pos hVideo, videoRegister_eq_mod]

theorem target_io {addr : Word} (h : 0x4000 ≤ addr.toNat) (h' : addr.toNat < 0x4020) :
    target addr = .device .io addr := by
  have hRam : ¬ addr < 0x2000 := by bv_omega
  have hVideo : ¬ addr < 0x4000 := by bv_omega
  have hIo : addr < 0x4020 := by bv_omega
  rw [target, if_neg hRam, if_neg hVideo, if_pos hIo]

theorem target_cart {addr : Word} (h : 0x4020 ≤ addr.toNat) : target addr = .device .cart addr := by
  have hRam : ¬ addr < 0x2000 := by bv_omega
  have hVideo : ¬ addr < 0x4000 := by bv_omega
  have hIo : ¬ addr < 0x4020 := by bv_omega
  rw [target, if_neg hRam, if_neg hVideo, if_neg hIo]

theorem busRead_device {addr a : Word} {o : Owner} (h : target addr = .device o a) (b : Bus) :
    busRead addr b = deviceRead o a b := by
  rw [busRead, h]

theorem busWrite_device {addr a : Word} {o : Owner} (h : target addr = .device o a) (v : Byte)
    (b : Bus) : busWrite addr v b = deviceWrite o a v b := by
  rw [busWrite, h]

/-- A read in the RAM window, by the remainder of its address (R74). -/
theorem memRead_ram_mod {addr : Word} (h : addr.toNat < 0x2000) (s : State) :
    memRead addr s = .ok (s.bus.ram.read (addr.toNat % 0x800)) s := by
  rw [memRead_ram (BitVec.lt_def.mpr h), ramIndex_eq_mod]

/-- A write in the RAM window, by the remainder of its address (R74). -/
theorem memWrite_ram_mod {addr : Word} (h : addr.toNat < 0x2000) (v : Byte) (s : State) :
    memWrite addr v s =
      .ok () (s.setBus (s.bus.setRam (s.bus.ram.write (addr.toNat % 0x800) v))) := by
  rw [memWrite_ram (BitVec.lt_def.mpr h), ramIndex_eq_mod]

/-- A read of the RAM window after a write of it: the mirrors of the written address give the byte. -/
theorem memRead_of_memWrite_ram {addr addr' : Word} {v : Byte} {s t : State}
    (hs : Memory.wf s.bus.ram) (h : addr.toNat < 0x2000) (h' : addr'.toNat < 0x2000)
    (hw : memWrite addr v s = .ok () t) :
    memRead addr' t =
      .ok (if addr'.toNat % 0x800 = addr.toNat % 0x800 then v
        else s.bus.ram.read (addr'.toNat % 0x800)) t := by
  rw [memWrite_ram_mod h] at hw
  obtain ⟨-, rfl⟩ := Access.ok.inj hw
  rw [memRead_ram_mod h', State.setBus_bus, Bus.setRam_ram, Memory.read_write hs]

/-- Settles O5: the decode takes the address modulo 2048, and the RAM list reads back what is written. -/
theorem ramWindowIsMirrored : Obligations.RamWindowIsMirrored := by
  intro addr s h
  refine ⟨memRead_ram_mod h s, fun v => memWrite_ram_mod h v s, fun v t addr' ⟨hRam, _⟩ hw h' => ?_⟩
  exact memRead_of_memWrite_ram hRam h h' hw

/-- Settles O6: the decode of each window names its owner, and a bus access calls the owner named. -/
theorem windowsForwardToTheirOwner : Obligations.WindowsForwardToTheirOwner := by
  intro addr v b
  refine ⟨fun ⟨h, h'⟩ => ?_, fun ⟨h, h'⟩ => ?_, fun h => ?_⟩
  · exact ⟨busRead_device (target_video h h') b, busWrite_device (target_video h h') v b⟩
  · exact ⟨busRead_device (target_io h h') b, busWrite_device (target_io h h') v b⟩
  · exact ⟨busRead_device (target_cart h) b, busWrite_device (target_cart h) v b⟩

end Sys2Proof.Machine
end

section
/-! SUPPORT. The step of one instruction (R160 to R163), the poll it leaves (R177), and what an error of a
step leaves (R170). -/

namespace Sys2Proof.Machine

/-- With no event pending, a step is the execution of the instruction fetched. -/
theorem step_of_fetch_ok {s w : State} {i : Instr} (hq : s.quiet) (hf : fetch s = .ok i w) :
    step s = exec i w := by
  rw [step_quiet hq, stepInstr, hf]

/-- A fetch that completes leaves the state but for the bus. -/
theorem fetch_ok_eq_setBus {s w : State} {i : Instr} (hf : fetch s = .ok i w) :
    w = s.setBus w.bus := by
  obtain ⟨hw, -⟩ := fetch_readsOnly s
  rwa [hf] at hw

section IllegalOpcode

/-- An illegal opcode has no operand bytes (R163). -/
theorem operandCountOf_of_mem_illegalOpcodes {op : Byte} (h : op ∈ illegalOpcodes) :
    operandCountOf op = 0 := by
  rw [operandCountOf, Laws.illegalOpcodes_entry op h]

theorem instrOf_of_mem_illegalOpcodes {op : Byte} (h : op ∈ illegalOpcodes) (lo hi : Byte) :
    instrOf op lo hi = .illegal op := by
  rw [instrOf, Laws.illegalOpcodes_entry op h]

/-- The fetch of an illegal opcode is the one read at PC (R163). -/
theorem fetch_illegal {s w : State} {op : Byte} (hr : memRead s.pc s = .ok op w)
    (h : op ∈ illegalOpcodes) : fetch s = .ok (.illegal op) w := by
  rw [fetch, hr, Access.bind_ok, operandCountOf_of_mem_illegalOpcodes h,
    instrOf_of_mem_illegalOpcodes h]

/-- A read leaves the state but for the bus, and the RAM as it was. -/
theorem memRead_ok_readsOnly {addr : Word} {s w : State} {v : Byte} (hr : memRead addr s = .ok v w) :
    ReadsOnly s w := by
  have h := memRead_readsOnly addr s
  rwa [hr] at h

/-- The error of an illegal opcode carries the state as the opcode's read left it (R163). -/
theorem step_illegal {s w : State} {op : Byte} (hq : s.quiet) (hr : memRead s.pc s = .ok op w)
    (h : op ∈ illegalOpcodes) : step s = .fault (.illegalOpcode op s.pc (s.setBus w.bus)) := by
  obtain ⟨hw, -⟩ := memRead_ok_readsOnly hr
  rw [step_of_fetch_ok hq (fetch_illegal hr h), hw]
  rfl

/-- Settles O42: the fetch of an illegal opcode is its one read, which changes nothing but the bus, and
in the RAM window nothing at all. -/
theorem illegalOpcodeChangesNothing : Obligations.IllegalOpcodeChangesNothing := by
  intro s w op hq hr h
  have hStep := step_illegal hq hr h
  obtain ⟨-, hRam, -⟩ := memRead_ok_readsOnly hr
  refine ⟨rfl, hStep, hRam, fun hpc => ?_⟩
  rw [memRead_ram_mod hpc] at hr
  obtain ⟨-, rfl⟩ := Access.ok.inj hr
  exact hStep

end IllegalOpcode

section Poll

theorem delaysPoll_iff (i : Instr) : delaysPoll i = true ↔ i = .cli ∨ i = .sei ∨ i = .plp := by
  cases i <;> simp [delaysPoll]

/-- The poll an instruction that completes leaves (R177). -/
theorem exec_iPoll {i : Instr} {s t : State} (h : exec i s = .next t) :
    t.iPoll = if i = .cli ∨ i = .sei ∨ i = .plp then s.p.i else t.p.i := by
  rcases exec_cases i s with ⟨op, -, hx⟩ | ⟨-, -, hx⟩ | ⟨-, body, hx⟩
  · cases hx.symm.trans h
  · cases hx.symm.trans h
  · obtain ⟨c, f, w, -, -, rfl⟩ := runInstr_eq_next (hx.symm.trans h)
    simp only [← delaysPoll_iff]
    rfl

/-- The reset sequence leaves `i_poll` and I set (R352, R177). -/
theorem takeReset_iPoll {s t : State} (h : takeReset s = .next t) : t.iPoll = t.p.i := by
  obtain ⟨v, w, -, rfl⟩ := conclude_eq_next h
  rfl

/-- An interrupt entry leaves `i_poll` and I set (R320, R177). -/
theorem enterInterrupt_iPoll {k : Interrupt} {s t : State} (h : enterInterrupt k s = .next t) :
    t.iPoll = t.p.i := by
  obtain ⟨_, w, hw, rfl⟩ := conclude_eq_next h
  obtain ⟨pc, b, -, -, rfl⟩ := enterTrap_ok hw
  cases k <;> rfl

end Poll

section Errors

variable {s : State} {x : Fault}

/-- The error that ends a sequence of accesses leaves the state it started from, but for the bus. -/
theorem conclude_fault_left {α : Type} {r : Access α} {f : α → State → State}
    (h : conclude s r f = .fault x) : x.left = s.setBus x.left.bus := by
  obtain ⟨e, w, -, rfl⟩ := conclude_eq_fault h
  rfl

theorem exec_fault_left {i : Instr} (h : exec i s = .fault x) : x.left = s.setBus x.left.bus := by
  rcases exec_cases i s with ⟨op, -, hx⟩ | ⟨-, -, hx⟩ | ⟨-, body, hx⟩
  · cases hx.symm.trans h
    rfl
  · cases hx.symm.trans h
  · obtain ⟨e, w, -, rfl⟩ := runInstr_eq_fault (hx.symm.trans h)
    rfl

theorem stepInstr_fault_left (h : stepInstr s = .fault x) : x.left = s.setBus x.left.bus := by
  unfold stepInstr at h
  split at h
  next i w hf =>
    rw [exec_fault_left h, fetch_ok_eq_setBus hf]
    rfl
  next e w hf =>
    cases h
    rfl

/-- What an error of a step leaves: the state before the step but for the bus (R170). -/
theorem step_fault_left (h : step s = .fault x) : x.left = s.setBus x.left.bus := by
  unfold step at h
  split at h
  · exact conclude_fault_left h
  · split at h
    · exact conclude_fault_left h
    · split at h
      · exact conclude_fault_left h
      · exact stepInstr_fault_left h

end Errors

/-- Settles O50: each kind of step that completes ends by setting `i_poll`, and an error leaves all but
the bus. -/
theorem pollFollowsTheMask : Obligations.PollFollowsTheMask := by
  refine ⟨fun s t h => ⟨fun hq i w hf => ?_, fun hq => ?_⟩, fun s f h => ?_⟩
  · have hp : w.p = s.p := by
      rw [fetch_ok_eq_setBus hf]
      rfl
    rw [step_of_fetch_ok hq hf] at h
    rw [exec_iPoll h, hp]
  · rcases step_eq_next h with ⟨-, h⟩ | ⟨-, -, h⟩ | ⟨-, -, -, h⟩ | ⟨hq', -⟩
    · exact takeReset_iPoll h
    · exact enterInterrupt_iPoll h
    · exact enterInterrupt_iPoll h
    · exact absurd hq' hq
  · rw [step_fault_left h]
    rfl

end Sys2Proof.Machine
end

section
/-! SUPPORT. What an instruction's rule needs beside its shape: the modes its constructor admits, and an
effect on registers and flags that has nothing to do with PC, the counter and the bus. From these follow
the `Encoding:` line (R104, R169) and the rule of each shape (R166, R168, R171, R203). -/

namespace Sys2Proof.Machine

/-- The flags of a byte, on the bit and on the number (R53). -/
theorem Status.deriveZN_eq_withZN (p : Status) (r : Byte) : p.deriveZN r = withZN p r := by
  have hn : r.getLsbD 7 = decide (128 ≤ r.toNat) := BitVec.msb_eq_decide r
  rw [Status.deriveZN, withZN, hn]
  rfl

theorem State.loadReg_eq (s : State) (r : Reg) (v : Byte) :
    s.loadReg r v = (s.setReg r v).setP (withZN s.p v) := by
  rw [State.loadReg, Status.deriveZN_eq_withZN]

section Forms

theorem opcode_of_operation {i : Instr} {m : Mnemonic} {mode : Mode}
    (h : i.operation = some (m, mode)) : i.opcode = opcodeIn mode (opcodesOf m) := by
  unfold Instr.opcode
  split
  · cases h
  · rw [h]

theorem cost_of_opcode {i : Instr} {op : Byte} {e : Entry} (ho : i.opcode = some op)
    (he : entryAt op = some e) : i.cost = e.cost := by
  rw [Instr.cost, ho]
  simp only [he]

/-- The constructor `mk` is the mnemonic `m`, and its operand forms are those whose mode is listed. -/
structure HasModes (mk : Operand → Instr) (m : Mnemonic) (modes : List Mode) : Prop where
  operation_eq : ∀ o, (mk o).operation = some (m, o.mode)
  wf_eq : ∀ o, (mk o).wf = modes.contains o.mode

variable {mk : Operand → Instr} {m : Mnemonic} {modes : List Mode}

theorem HasModes.wf_iff (h : HasModes mk m modes) (o : Operand) :
    (mk o).wf = true ↔ o.mode ∈ modes := by
  rw [h.wf_eq, List.contains_iff_mem]

/-- A form of the table has its cost there (R104). -/
theorem HasModes.exists_cost (h : HasModes mk m modes) {o : Operand} (hwf : (mk o).wf = true) :
    ∃ c, (mk o).cost = some c :=
  wf_cost hwf (by rw [h.operation_eq]; nofun)

/-- An `Encoding:` line: its rows name the modes, the mnemonic's opcodes and the entries of the table. -/
theorem HasModes.hasForms (h : HasModes mk m modes) {rows : List FormRow}
    (hmodes : rows.map FormRow.mode = modes)
    (hrows : ∀ r ∈ rows, opcodeIn r.mode (opcodesOf m) = some r.opcode
      ∧ entryAt r.opcode = some (.documented m r.mode r.base r.penalty)) : HasForms mk rows := by
  refine fun o => ⟨by rw [hmodes, h.wf_iff], fun r hr hmode => ?_⟩
  obtain ⟨hIn, hEntry⟩ := hrows r hr
  have hOpcode : (mk o).opcode = some r.opcode := by
    rw [opcode_of_operation (h.operation_eq o), hmode, hIn]
  exact ⟨hOpcode, cost_of_opcode hOpcode hEntry⟩

end Forms

section Effects

/-- The effect `g` neither reads nor writes PC and the bus, and does not write the counter. -/
def RegisterEffect (g : State → State) : Prop :=
  ∀ s pc b, g ((s.setPc pc).setBus b) = ((g s).setPc pc).setBus b ∧ (g s).cycles = s.cycles

/-- The end of an instruction that advanced PC, made its bus accesses and had the effect `g` (R168). -/
theorem retire_registerEffect {i : Instr} {c : Cost} (hc : i.cost = some c) {g : State → State}
    (hg : RegisterEffect g) {s w : State} (hw : w = (s.advance i.length).setBus w.bus)
    (crossed : Bool) :
    retire i s c { crossed := crossed, taken := false } (g w) = after i s crossed w.bus (g s) := by
  obtain ⟨hframe, hcycles⟩ := hg s (s.advance i.length).pc w.bus
  have hgw : g w = ((g s).setPc (s.advance i.length).pc).setBus w.bus := by
    rw [← hframe]
    exact congrArg g hw
  rw [hgw, retire_eq_after hc]
  · rfl
  · rfl
  · exact hcycles

variable {mk : Operand → Instr} {m : Mnemonic} {modes : List Mode}

/-- The rule of the instructions of the read shape (R166, R171). -/
theorem HasModes.readRuleWhen (h : HasModes mk m modes) {pre : State → Prop}
    {eff : Byte → State → State} (heff : ∀ b, RegisterEffect (eff b))
    (hexec : ∀ o s, pre s → exec (mk o) s = readShape (mk o) o s eff) : ReadRuleWhen pre mk eff := by
  intro o s hwf hpre
  obtain ⟨c, hc⟩ := h.exists_cost hwf
  rw [hexec o s hpre]
  refine ⟨fun b crossed w hr => ?_, fun e w hr => readShape_err hc hr eff⟩
  obtain ⟨hw, -⟩ := operandRead_readsOnly (mk o) o s
  rw [hr, Access.final_ok] at hw
  rw [readShape_ok hc hr, retire_registerEffect hc (heff b) hw]

/-- A store to a memory place is the one write there (R203). -/
theorem storeShape_eq {i : Instr} {c : Cost} (hc : i.cost = some c) {o : Operand} {s w : State}
    {ea : Word} {crossed : Bool} (hr : operandPlace i o s = .ok ⟨.memory ea, crossed⟩ w)
    (v : State → Byte) :
    storeShape i o s v =
      conclude s (memWrite ea (v w) w) fun _ u =>
        retire i s c { crossed := crossed, taken := false } u := by
  rw [operandPlace] at hr
  rw [storeShape, runInstr_eq hc, hr, Access.bind_ok, writeLocation]
  cases memWrite ea (v w) w <;> rfl

/-- The rule of the instructions of the store shape, whose forms are all found in memory (R203). -/
theorem HasModes.storeRule (h : HasModes mk m modes)
    (hmem : ∀ mode ∈ modes, mode ∉ [Mode.accumulator, .immediate, .indirect]) {v : State → Byte}
    (hv : ∀ s pc, v (s.setPc pc) = v s)
    (hexec : ∀ o s, exec (mk o) s = storeShape (mk o) o s v) : StoreRule mk v := by
  intro o s hwf
  obtain ⟨c, hc⟩ := h.exists_cost hwf
  obtain ⟨ea, crossed, hr⟩ :=
    resolve_memory (s.advance (mk o).length) (hmem _ ((h.wf_iff o).mp hwf))
  have hByte : v (s.advance (mk o).length) = v s := hv s _
  rw [hexec, storeShape_eq hc hr, hByte]
  refine ⟨ea, crossed, _, hr, fun u hu => ?_, fun e u hu => ?_⟩
  · obtain ⟨-, hbus⟩ := memWrite_eq_ok hu
    have hw : u = (s.advance (mk o).length).setBus u.bus := by
      rw [hbus]
      rfl
    rw [hu, conclude_ok]
    exact congrArg _ (retire_registerEffect hc (g := id) (fun _ _ _ => ⟨rfl, rfl⟩) hw crossed)
  · rw [hu, conclude_err]

/-- The rule of the instructions of the Implicit shape (R131). -/
theorem impliedRule_of_impliedShape {i : Instr} {op : Byte} {base : Nat} {eff : State → State}
    (hform : HasForm i op base .none) (heff : RegisterEffect eff)
    (hexec : ∀ s, exec i s = impliedShape i s eff) : ImpliedRule i op base eff := by
  refine ⟨hform, fun s => ?_⟩
  obtain ⟨-, -, hc⟩ := hform
  rw [hexec, impliedShape_eq hc]
  exact congrArg _ (retire_registerEffect hc heff (w := s.advance i.length) rfl false)

end Effects

end Sys2Proof.Machine
end

section
/-! SUPPORT. Loads, stores and register transfers (R200 to R211): the modes and the shape of each, and
the obligations about them. -/

namespace Sys2Proof.Machine

/-- An error of the fetch ends the step (R161, R170). -/
theorem fetchErrorEndsStep : FetchErrorEndsStep := by
  intro s e w hq hf
  rw [step_quiet hq, stepInstr, hf]
  rfl

section Loads

theorem lda_hasModes : HasModes .lda .lda accumulatorReadModes := ⟨fun _ => rfl, fun _ => rfl⟩
theorem ldx_hasModes : HasModes .ldx .ldx ldxModes := ⟨fun _ => rfl, fun _ => rfl⟩
theorem ldy_hasModes : HasModes .ldy .ldy ldyModes := ⟨fun _ => rfl, fun _ => rfl⟩

/-- The rule of an instruction that loads a data register with its operand. -/
theorem HasModes.loadRule {mk : Operand → Instr} {m : Mnemonic} {modes : List Mode}
    (h : HasModes mk m modes) (r : Reg)
    (hexec : ∀ o s, exec (mk o) s = readShape (mk o) o s fun b w => w.loadReg r b) :
    ReadRule mk fun b s => (s.setReg r b).setP (withZN s.p b) := by
  refine h.readRuleWhen (fun b => ?_) fun o s _ => ?_
  · cases r <;> exact fun _ _ _ => ⟨rfl, rfl⟩
  · rw [hexec]
    simp only [State.loadReg_eq]

/-- Settles O14: each load is the read shape around the loading of its register. -/
theorem loadsLoadAndSetZN : Obligations.LoadsLoadAndSetZN :=
  ⟨fetchErrorEndsStep,
    lda_hasModes.hasForms rfl (by decide), lda_hasModes.loadRule .a fun _ _ => rfl,
    ldx_hasModes.hasForms rfl (by decide), ldx_hasModes.loadRule .x fun _ _ => rfl,
    ldy_hasModes.hasForms rfl (by decide), ldy_hasModes.loadRule .y fun _ _ => rfl⟩

end Loads

section Stores

theorem sta_hasModes : HasModes .sta .sta staModes := ⟨fun _ => rfl, fun _ => rfl⟩
theorem stx_hasModes : HasModes .stx .stx stxModes := ⟨fun _ => rfl, fun _ => rfl⟩
theorem sty_hasModes : HasModes .sty .sty styModes := ⟨fun _ => rfl, fun _ => rfl⟩

/-- Settles O15: each store is the store shape, and no form of it is Accumulator, Immediate or
Indirect. -/
theorem storesWriteOnce : Obligations.StoresWriteOnce :=
  ⟨fetchErrorEndsStep,
    sta_hasModes.hasForms rfl (by decide),
    sta_hasModes.storeRule (by decide) (fun _ _ => rfl) fun _ _ => rfl,
    stx_hasModes.hasForms rfl (by decide),
    stx_hasModes.storeRule (by decide) (fun _ _ => rfl) fun _ _ => rfl,
    sty_hasModes.hasForms rfl (by decide),
    sty_hasModes.storeRule (by decide) (fun _ _ => rfl) fun _ _ => rfl⟩

end Stores

section Transfers

/-- The rule of an Implicit-mode instruction that loads a data register with a byte `v` of the state;
`hv` says that `v` does not look at PC and the bus. -/
theorem impliedRule_loadReg {i : Instr} {op : Byte} {base : Nat} (r : Reg) (v : State → Byte)
    (hform : HasForm i op base .none) (hv : ∀ s pc b, v ((s.setPc pc).setBus b) = v s)
    (hexec : ∀ s, exec i s = impliedShape i s fun w => w.loadReg r (v w)) :
    ImpliedRule i op base fun s => (s.setReg r (v s)).setP (withZN s.p (v s)) := by
  refine impliedRule_of_impliedShape hform (fun s pc b => ?_) fun s => ?_
  · rw [hv]
    cases r <;> exact ⟨rfl, rfl⟩
  · rw [hexec]
    simp only [State.loadReg_eq]

/-- Settles O16: five transfers load a register with a register, and TXS writes SP alone. -/
theorem transfersCopyRegisters : Obligations.TransfersCopyRegisters :=
  ⟨impliedRule_loadReg .x State.a ⟨rfl, rfl, rfl⟩ (fun _ _ _ => rfl) fun _ => rfl,
    impliedRule_loadReg .y State.a ⟨rfl, rfl, rfl⟩ (fun _ _ _ => rfl) fun _ => rfl,
    impliedRule_loadReg .a State.x ⟨rfl, rfl, rfl⟩ (fun _ _ _ => rfl) fun _ => rfl,
    impliedRule_loadReg .a State.y ⟨rfl, rfl, rfl⟩ (fun _ _ _ => rfl) fun _ => rfl,
    impliedRule_loadReg .x State.sp ⟨rfl, rfl, rfl⟩ (fun _ _ _ => rfl) fun _ => rfl,
    impliedRule_of_impliedShape ⟨rfl, rfl, rfl⟩ (fun _ _ _ => ⟨rfl, rfl⟩) fun _ => rfl⟩

end Transfers

end Sys2Proof.Machine
end

section
/-! SUPPORT. Arithmetic, logic, compare and bit test (`43_alu.md`, R220 to R230): the adder and the
comparison on numbers, the modes and the shape of each instruction, and the obligations about them. -/

namespace Sys2Proof.Machine

section Adder

theorem msb_iff_le_toNat (x : Byte) : x.msb = true ↔ 128 ≤ x.toNat := by
  rw [BitVec.msb_eq_decide]
  exact decide_eq_true_iff

theorem and_signMask_ne_zero_iff (x : Byte) : x &&& 0x80 ≠ 0 ↔ x.msb = true := by
  have hmsb : x.msb = x.getLsbD 7 := rfl
  have hmask : x &&& 0x80 = if x.getLsbD 7 then 0x80 else 0 := BitVec.and_twoPow x 7
  rw [hmsb, hmask]
  cases x.getLsbD 7 <;> decide

/-- The adder's overflow on the sign bits of the operands and of the result (R220). -/
theorem aluAdd_v_iff_msb (a b : Byte) (cin : Bool) :
    (aluAdd a b cin).v = true ↔ a.msb = b.msb ∧ a.msb ≠ (aluAdd a b cin).r.msb := by
  have hv : (aluAdd a b cin).v = true ↔
      (a ^^^ (aluAdd a b cin).r) &&& (b ^^^ (aluAdd a b cin).r) &&& 0x80 ≠ 0 := bne_iff_ne
  rw [hv, and_signMask_ne_zero_iff, BitVec.msb_and, BitVec.msb_xor, BitVec.msb_xor]
  cases a.msb <;> cases b.msb <;> simp

/-- Settles O17: the sum and the carry are the adder's definition on numbers, and overflow is the
comparison of the three sign bits. -/
theorem adderCarryAndOverflow : Obligations.AdderCarryAndOverflow := by
  intro a b cin
  refine ⟨BitVec.toNat_ofNat _ 8, decide_eq_true_iff, ?_⟩
  simp only [aluAdd_v_iff_msb, ← msb_iff_le_toNat, ← Bool.eq_iff_iff, ne_eq]

/-- The adder's fields in the terms of ADC's rule (R222). -/
theorem aluAdd_eq (a m : Byte) (cin : Bool) :
    let sum := a.toNat + m.toNat + cin.toNat
    let r : Byte := BitVec.ofNat 8 sum
    aluAdd a m cin =
      { r := r, c := decide (255 < sum), v := decide ((a ^^^ r) &&& (m ^^^ r) &&& 0x80 ≠ 0) } := by
  intro sum r
  have hv : (aluAdd a m cin).v = decide ((a ^^^ r) &&& (m ^^^ r) &&& 0x80 ≠ 0) :=
    Bool.eq_iff_iff.mpr (bne_iff_ne.trans decide_eq_true_iff.symm)
  rw [← hv]
  rfl

theorem toNat_xor_ff (m : Byte) : (m ^^^ 0xFF).toNat = 255 - m.toNat := by
  have hnot : m ^^^ 0xFF = ~~~m := BitVec.xor_allOnes
  rw [hnot, BitVec.toNat_not]

theorem msb_xor_ff (m : Byte) : (m ^^^ 0xFF).msb = !m.msb := by
  rw [BitVec.msb_xor]
  exact Bool.xor_true _

/-- Adding the complemented operand is the exact subtraction with borrow: the sum exceeds the
difference by 256 (R223). -/
theorem aluAdd_complement_eq (a m : Byte) (cin : Bool) :
    let diff : Int := a.toNat - m.toNat - (1 - cin.toNat)
    let r : Byte := BitVec.ofInt 8 diff
    aluAdd a (m ^^^ 0xFF) cin =
      { r := r, c := decide (0 ≤ diff), v := decide ((a ^^^ m) &&& (a ^^^ r) &&& 0x80 ≠ 0) } := by
  intro diff r
  have hsum : ((a.toNat + (m ^^^ 0xFF).toNat + cin.toNat : Nat) : Int) = diff + 256 := by
    rw [toNat_xor_ff]
    have := m.isLt
    omega
  have hr : (aluAdd a (m ^^^ 0xFF) cin).r = r := by
    have hadd : BitVec.ofInt 8 (diff + 256) = r + 0#8 := BitVec.ofInt_add diff 256
    rw [← BitVec.add_zero r, ← hadd, ← hsum, BitVec.ofInt_natCast]
    rfl
  have hc : (aluAdd a (m ^^^ 0xFF) cin).c = decide (0 ≤ diff) := by
    refine decide_eq_decide.mpr ?_
    omega
  have hv : (aluAdd a (m ^^^ 0xFF) cin).v = decide ((a ^^^ m) &&& (a ^^^ r) &&& 0x80 ≠ 0) := by
    rw [Bool.eq_iff_iff, decide_eq_true_iff, aluAdd_v_iff_msb, hr, msb_xor_ff,
      and_signMask_ne_zero_iff, BitVec.msb_and, BitVec.msb_xor, BitVec.msb_xor]
    cases a.msb <;> cases m.msb <;> simp
  rw [← hc, ← hv, ← hr]

end Adder

section Rules

variable {mk : Operand → Instr} {m : Mnemonic} {modes : List Mode}

theorem State.loadSum_eq (s : State) (sum : Sum) :
    s.loadSum sum = (s.setA sum.r).setP (withZN { s.p with c := sum.c, v := sum.v } sum.r) := by
  rw [State.loadSum, Status.afterSum, Status.deriveZN_eq_withZN]

/-- The rule of an instruction that adds a byte `g` of its operand to A, where the decimal rule does not
refuse it (R222, R223, R231). -/
theorem HasModes.sumRule (h : HasModes mk m modes) (g : Byte → Byte)
    {eff : Byte → State → State} (heff : ∀ b s, s.loadSum (aluAdd s.a (g b) s.p.c) = eff b s)
    (hexec : ∀ o s, exec (mk o) s = if s.refusesDecimal then .refused .decimalMode
      else readShape (mk o) o s fun b w => w.loadSum (aluAdd w.a (g b) w.p.c)) :
    ReadRuleWhen (fun s => s.cfg.decimalMode = .ignored ∨ s.p.d = false) mk eff := by
  obtain rfl : (fun b s => s.loadSum (aluAdd s.a (g b) s.p.c)) = eff := funext₂ heff
  refine h.readRuleWhen (fun _ _ _ _ => ⟨rfl, rfl⟩) fun o s hpre => ?_
  have hrefuses : s.refusesDecimal = false := by
    rcases hpre with hmode | hd
    · simp [State.refusesDecimal, hmode]
    · simp [State.refusesDecimal, hd]
  rw [hexec, hrefuses]
  rfl

/-- The rule of an instruction that combines A with its operand (R224 to R226). -/
theorem HasModes.combineRule (h : HasModes mk m modes) (g : Byte → Byte → Byte)
    (hexec : ∀ o s, exec (mk o) s = readShape (mk o) o s fun b w => w.loadReg .a (g w.a b)) :
    ReadRule mk fun b s => (s.setA (g s.a b)).setP (withZN s.p (g s.a b)) := by
  refine h.readRuleWhen (fun _ _ _ _ => ⟨rfl, rfl⟩) fun o s _ => ?_
  rw [hexec]
  simp only [State.loadReg_eq, State.setReg_a]

/-- The comparison on numbers (R221). -/
theorem Status.afterCompare_eq (p : Status) (reg b : Byte) :
    p.afterCompare reg b = { p with
      c := decide (b.toNat ≤ reg.toNat), z := decide (reg = b)
      n := decide (128 ≤ (reg.toNat + 256 - b.toNat) % 256) } := by
  have hn : (reg - b).getLsbD 7 = decide (128 ≤ (reg.toNat + 256 - b.toNat) % 256) := by
    have hsub : (reg - b).toNat = (reg.toNat + 256 - b.toNat) % 256 := by
      rw [BitVec.toNat_sub]
      have := b.isLt
      omega
    rw [← hsub]
    exact BitVec.msb_eq_decide (reg - b)
  rw [Status.afterCompare, hn]
  rfl

/-- The rule of an instruction that compares a data register with its operand (R227 to R229). -/
theorem HasModes.compareRule (h : HasModes mk m modes) (r : Reg)
    (hexec : ∀ o s, exec (mk o) s =
      readShape (mk o) o s fun b w => w.setP (w.p.afterCompare (w.getReg r) b)) :
    ReadRule mk fun b s => s.setP { s.p with
      c := decide (b.toNat ≤ (s.getReg r).toNat), z := decide (s.getReg r = b)
      n := decide (128 ≤ ((s.getReg r).toNat + 256 - b.toNat) % 256) } := by
  refine h.readRuleWhen (fun b => ?_) fun o s _ => ?_
  · cases r <;> exact fun _ _ _ => ⟨rfl, rfl⟩
  · rw [hexec]
    simp only [Status.afterCompare_eq]

end Rules

section Instructions

theorem adc_hasModes : HasModes .adc .adc accumulatorReadModes := ⟨fun _ => rfl, fun _ => rfl⟩
theorem sbc_hasModes : HasModes .sbc .sbc accumulatorReadModes := ⟨fun _ => rfl, fun _ => rfl⟩
theorem and_hasModes : HasModes .and .and accumulatorReadModes := ⟨fun _ => rfl, fun _ => rfl⟩
theorem ora_hasModes : HasModes .ora .ora accumulatorReadModes := ⟨fun _ => rfl, fun _ => rfl⟩
theorem eor_hasModes : HasModes .eor .eor accumulatorReadModes := ⟨fun _ => rfl, fun _ => rfl⟩
theorem cmp_hasModes : HasModes .cmp .cmp accumulatorReadModes := ⟨fun _ => rfl, fun _ => rfl⟩
theorem cpx_hasModes : HasModes .cpx .cpx indexCompareModes := ⟨fun _ => rfl, fun _ => rfl⟩
theorem cpy_hasModes : HasModes .cpy .cpy indexCompareModes := ⟨fun _ => rfl, fun _ => rfl⟩
theorem bit_hasModes : HasModes .bit .bit bitModes := ⟨fun _ => rfl, fun _ => rfl⟩

/-- Settles O18: ADC adds its operand, and the adder's fields are the rule's. -/
theorem adcAddsWithCarry : Obligations.AdcAddsWithCarry := by
  refine ⟨fetchErrorEndsStep, adc_hasModes.hasForms rfl (by decide),
    adc_hasModes.sumRule id (fun b s => ?_) fun _ _ => rfl⟩
  rw [State.loadSum_eq, id, aluAdd_eq]
  rfl

/-- Settles O19: SBC adds the complement of its operand, which is the exact subtraction. -/
theorem sbcSubtractsWithBorrow : Obligations.SbcSubtractsWithBorrow := by
  refine ⟨fetchErrorEndsStep, sbc_hasModes.hasForms rfl (by decide),
    sbc_hasModes.sumRule (· ^^^ 0xFF) (fun b s => ?_) fun _ _ => rfl⟩
  rw [State.loadSum_eq, aluAdd_complement_eq]
  rfl

/-- Settles O22: each of the three loads A with a bitwise operation of A and the operand. -/
theorem logicCombinesBits : Obligations.LogicCombinesBits :=
  ⟨fetchErrorEndsStep,
    and_hasModes.hasForms rfl (by decide), and_hasModes.combineRule (· &&& ·) fun _ _ => rfl,
    ora_hasModes.hasForms rfl (by decide), ora_hasModes.combineRule (· ||| ·) fun _ _ => rfl,
    eor_hasModes.hasForms rfl (by decide), eor_hasModes.combineRule (· ^^^ ·) fun _ _ => rfl⟩

/-- Settles O23: the three compare the operand with A, X and Y. -/
theorem comparesSetCarryZeroNegative : Obligations.ComparesSetCarryZeroNegative :=
  ⟨fetchErrorEndsStep,
    cmp_hasModes.hasForms rfl (by decide), cmp_hasModes.compareRule .a fun _ _ => rfl,
    cpx_hasModes.hasForms rfl (by decide), cpx_hasModes.compareRule .x fun _ _ => rfl,
    cpy_hasModes.hasForms rfl (by decide), cpy_hasModes.compareRule .y fun _ _ => rfl⟩

/-- Settles O24: BIT is the read shape around a write of three flags, which looks at A and P alone. -/
theorem bitTestsMemory : Obligations.BitTestsMemory :=
  ⟨fetchErrorEndsStep, bit_hasModes.hasForms rfl (by decide),
    bit_hasModes.readRuleWhen (fun _ _ _ _ => ⟨rfl, rfl⟩) fun _ _ _ => rfl⟩

end Instructions

end Sys2Proof.Machine
end

section
/-! SUPPORT. Shifts, rotates, increments and decrements (`44_shift_incdec.md`, R240 to R250): the rule of
the read-modify-write shape, the shifted bytes on numbers, the modes and the shape of each instruction,
and the obligations about them. -/

namespace Sys2Proof.Machine

section ModifyRules

/-- The Accumulator mode has one form, with no bytes of its own (R132). -/
theorem eq_accumulator_of_mode {o : Operand} (h : o.mode = .accumulator) :
    o = .accumulator := by
  cases o with
  | accumulator => rfl
  | _ => cases h

/-- A read-modify-write of a memory place is the one read and the one write there, then the flags
(R240). -/
theorem modifyShape_memory_eq {i : Instr} {c : Cost} (hc : i.cost = some c) {o : Operand}
    {s w : State} {ea : Word} {crossed : Bool}
    (hr : operandPlace i o s = .ok ⟨.memory ea, crossed⟩ w) (f : Byte → Status → Byte × Status) :
    modifyShape i o s f =
      conclude s
        ((memRead ea w).bind fun v u => (memWrite ea (f v u.p).1 u).bind fun _ t =>
          .ok { crossed := crossed, taken := false } (t.setP (f v u.p).2))
        (retire i s c) := by
  rw [operandPlace] at hr
  rw [modifyShape, runInstr_eq hc, hr]
  rfl

variable {mk : Operand → Instr} {m : Mnemonic} {modes : List Mode} {f : Byte → Status → Byte × Status}

/-- The rule of the Accumulator form of the read-modify-write shape, which makes no access (R240). -/
theorem HasModes.accumulatorRule (h : HasModes mk m modes) (hmem : Mode.accumulator ∈ modes)
    (hexec : ∀ o s, exec (mk o) s = modifyShape (mk o) o s f) : AccumulatorRule mk f := by
  intro s
  obtain ⟨c, hc⟩ := h.exists_cost ((h.wf_iff .accumulator).mpr hmem)
  rw [hexec, modifyShape, runInstr_eq hc]
  exact congrArg _ (retire_registerEffect hc (g := fun s => (s.setA (f s.a s.p).1).setP (f s.a s.p).2)
    (fun _ _ _ => ⟨rfl, rfl⟩) (w := s.advance (mk .accumulator).length) rfl false)

/-- The rule of the memory forms of the read-modify-write shape: the read and the write move the bus
alone, so the flags are computed from those the instruction began with (R240). -/
theorem HasModes.memoryModifyRule (h : HasModes mk m modes)
    (hmem : ∀ mode ∈ modes, mode ≠ .accumulator → mode ∉ [Mode.accumulator, .immediate, .indirect])
    (hexec : ∀ o s, exec (mk o) s = modifyShape (mk o) o s f) : MemoryModifyRule mk f := by
  intro o s hwf ho
  obtain ⟨c, hc⟩ := h.exists_cost hwf
  obtain ⟨ea, crossed, hr⟩ := resolve_memory (s.advance (mk o).length)
    (hmem _ ((h.wf_iff o).mp hwf) (mt eq_accumulator_of_mode ho))
  rw [hexec, modifyShape_memory_eq hc hr]
  refine ⟨ea, crossed, _, hr, fun v u hu => ?_, fun e u hu => by rw [hu]; rfl⟩
  obtain ⟨-, hread⟩ := memRead_eq_ok hu
  have hp : u.p = s.p := by
    rw [hread]
    rfl
  rw [hu, Access.bind_ok, hp]
  refine ⟨fun t ht => ?_, fun e t ht => by rw [ht]; rfl⟩
  obtain ⟨-, hwrite⟩ := memWrite_eq_ok ht
  have hw : t = (s.advance (mk o).length).setBus t.bus := by
    rw [hwrite, hread]
    rfl
  rw [ht]
  exact congrArg _ (retire_registerEffect hc (g := fun s' => s'.setP (f v s.p).2)
    (fun _ _ _ => ⟨rfl, rfl⟩) hw crossed)

end ModifyRules

section Bytes

theorem shiftLeft_eq (v : Byte) :
    shiftLeft v = { r := BitVec.ofNat 8 (2 * v.toNat), c := v.getLsbD 7 } := by
  have hr : v <<< 1 = BitVec.ofNat 8 (2 * v.toNat) := by
    refine BitVec.eq_of_toNat_eq ?_
    rw [BitVec.toNat_shiftLeft, BitVec.toNat_ofNat, Nat.shiftLeft_eq, Nat.mul_comm]
  rw [shiftLeft, hr]

theorem shiftRight_eq (v : Byte) :
    shiftRight v = { r := BitVec.ofNat 8 (v.toNat / 2), c := v.getLsbD 0 } := by
  have hr : v >>> 1 = BitVec.ofNat 8 (v.toNat / 2) := by
    refine BitVec.eq_of_toNat_eq ?_
    rw [BitVec.toNat_ushiftRight, BitVec.toNat_ofNat, Nat.shiftRight_eq_div_pow]
    have := v.isLt
    omega
  rw [shiftRight, hr]

/-- Moving the old C into a bit that is 0 adds that bit's weight. -/
theorem or_ite_eq_add_ofNat {x m : Byte} (h : x &&& m = 0) (c : Bool) :
    x ||| (if c then m else 0) = x + BitVec.ofNat 8 (m.toNat * c.toNat) := by
  cases c with
  | false => exact BitVec.or_zero.trans (BitVec.add_zero x).symm
  | true =>
    rw [if_pos rfl, ← BitVec.add_eq_or_of_and_eq_zero x m h, Bool.toNat_true, Nat.mul_one,
      BitVec.ofNat_toNat, BitVec.setWidth_eq]

theorem shiftLeft_r_and_one (v : Byte) : (shiftLeft v).r &&& 0x01 = 0 := by
  have hbit : (shiftLeft v).r.getLsbD 0 = false := by
    simp [shiftLeft]
  exact (BitVec.and_twoPow _ 0).trans (by rw [hbit]; rfl)

theorem shiftRight_r_and_signMask (v : Byte) : (shiftRight v).r &&& 0x80 = 0 := by
  have hbit : (shiftRight v).r.getLsbD 7 = false := by
    simp [shiftRight]
  exact (BitVec.and_twoPow _ 7).trans (by rw [hbit]; rfl)

theorem rotateLeft_eq (v : Byte) (c : Bool) :
    rotateLeft v c = { r := BitVec.ofNat 8 (2 * v.toNat + c.toNat), c := v.getLsbD 7 } := by
  have hr : (shiftLeft v).r ||| (if c then 0x01 else 0x00) =
      BitVec.ofNat 8 (2 * v.toNat + 1 * c.toNat) := by
    rw [BitVec.ofNat_add, or_ite_eq_add_ofNat (shiftLeft_r_and_one v), shiftLeft_eq]
    rfl
  rw [Nat.one_mul] at hr
  rw [← hr]
  rfl

theorem rotateRight_eq (v : Byte) (c : Bool) :
    rotateRight v c = { r := BitVec.ofNat 8 (v.toNat / 2 + 128 * c.toNat), c := v.getLsbD 0 } := by
  have hr : (shiftRight v).r ||| (if c then 0x80 else 0x00) =
      BitVec.ofNat 8 (v.toNat / 2 + 128 * c.toNat) := by
    rw [BitVec.ofNat_add, or_ite_eq_add_ofNat (shiftRight_r_and_signMask v), shiftRight_eq]
    rfl
  rw [← hr]
  rfl

theorem add_one_eq_ofNat (v : Byte) : v + 1 = BitVec.ofNat 8 (v.toNat + 1) := by
  rw [BitVec.ofNat_add, BitVec.ofNat_toNat, BitVec.setWidth_eq]
  rfl

theorem sub_one_eq_ofNat (v : Byte) : v - 1 = BitVec.ofNat 8 (v.toNat + 255) := by
  rw [BitVec.ofNat_add, BitVec.ofNat_toNat, BitVec.setWidth_eq, BitVec.sub_eq_add_neg]
  rfl

end Bytes

section Instructions

variable {mk : Operand → Instr} {m : Mnemonic}

/-- What a shift or rotate `g` of the operand and the old C gives: the byte, and the flags with C the
bit shifted out (R241 to R244). -/
def shiftEffect (g : Byte → Bool → Shifted) (v : Byte) (p : Status) : Byte × Status :=
  ((g v p.c).r, withZN { p with c := (g v p.c).c } (g v p.c).r)

/-- The two rules of a shift or rotate that the model computes with `g`, in terms of an equal `g'`. -/
theorem HasModes.shiftRules (h : HasModes mk m shiftModes) {g g' : Byte → Bool → Shifted}
    (hg : ∀ v c, g v c = g' v c)
    (hexec : ∀ o s, exec (mk o) s =
      modifyShape (mk o) o s fun v p => ((g v p.c).r, p.afterShift (g v p.c))) :
    AccumulatorRule mk (shiftEffect g') ∧ MemoryModifyRule mk (shiftEffect g') := by
  obtain rfl : g = g' := funext₂ hg
  have hShift : ∀ o s, exec (mk o) s = modifyShape (mk o) o s (shiftEffect g) := by
    intro o s
    simp only [hexec, Status.afterShift, Status.deriveZN_eq_withZN]
    rfl
  exact ⟨h.accumulatorRule (by decide) hShift, h.memoryModifyRule (by decide) hShift⟩

/-- The rule of an instruction that replaces a memory byte with the byte `g` of it, in terms of an
equal `g'` (R245, R246). -/
theorem HasModes.replaceByteRule (h : HasModes mk m incDecModes) {g g' : Byte → Byte}
    (hg : ∀ v, g v = g' v)
    (hexec : ∀ o s, exec (mk o) s = modifyShape (mk o) o s fun v p => (g v, p.deriveZN (g v))) :
    MemoryModifyRule mk fun v p => (g' v, withZN p (g' v)) := by
  obtain rfl : g = g' := funext hg
  refine h.memoryModifyRule (by decide) fun o s => ?_
  simp only [hexec, Status.deriveZN_eq_withZN]

theorem asl_hasModes : HasModes .asl .asl shiftModes := ⟨fun _ => rfl, fun _ => rfl⟩
theorem lsr_hasModes : HasModes .lsr .lsr shiftModes := ⟨fun _ => rfl, fun _ => rfl⟩
theorem rol_hasModes : HasModes .rol .rol shiftModes := ⟨fun _ => rfl, fun _ => rfl⟩
theorem ror_hasModes : HasModes .ror .ror shiftModes := ⟨fun _ => rfl, fun _ => rfl⟩
theorem inc_hasModes : HasModes .inc .inc incDecModes := ⟨fun _ => rfl, fun _ => rfl⟩
theorem dec_hasModes : HasModes .dec .dec incDecModes := ⟨fun _ => rfl, fun _ => rfl⟩

/-- Settles O25: each of the four is the read-modify-write shape around its shift, and the shifted byte
is the rule's number. -/
theorem shiftsMoveBitsThroughCarry : Obligations.ShiftsMoveBitsThroughCarry := by
  obtain ⟨hAslA, hAslM⟩ := asl_hasModes.shiftRules (fun v _ => shiftLeft_eq v) fun _ _ => rfl
  obtain ⟨hLsrA, hLsrM⟩ := lsr_hasModes.shiftRules (fun v _ => shiftRight_eq v) fun _ _ => rfl
  obtain ⟨hRolA, hRolM⟩ := rol_hasModes.shiftRules rotateLeft_eq fun _ _ => rfl
  obtain ⟨hRorA, hRorM⟩ := ror_hasModes.shiftRules rotateRight_eq fun _ _ => rfl
  exact ⟨fetchErrorEndsStep,
    asl_hasModes.hasForms rfl (by decide), hAslA, hAslM,
    lsr_hasModes.hasForms rfl (by decide), hLsrA, hLsrM,
    rol_hasModes.hasForms rfl (by decide), hRolA, hRolM,
    ror_hasModes.hasForms rfl (by decide), hRorA, hRorM⟩

/-- Settles O26: both replace the byte at their operand, and the new byte is the rule's number. -/
theorem incDecModifyMemory : Obligations.IncDecModifyMemory :=
  ⟨fetchErrorEndsStep,
    inc_hasModes.hasForms rfl (by decide),
    inc_hasModes.replaceByteRule add_one_eq_ofNat fun _ _ => rfl,
    dec_hasModes.hasForms rfl (by decide),
    dec_hasModes.replaceByteRule sub_one_eq_ofNat fun _ _ => rfl⟩

/-- Settles O27: each loads X or Y with that register plus or minus 1. -/
theorem incDecRegisters : Obligations.IncDecRegisters :=
  ⟨impliedRule_loadReg .x (fun s => s.x + 1) ⟨rfl, rfl, rfl⟩ (fun _ _ _ => rfl) fun _ => rfl,
    impliedRule_loadReg .y (fun s => s.y + 1) ⟨rfl, rfl, rfl⟩ (fun _ _ _ => rfl) fun _ => rfl,
    impliedRule_loadReg .x (fun s => s.x - 1) ⟨rfl, rfl, rfl⟩ (fun _ _ _ => rfl) fun _ => rfl,
    impliedRule_loadReg .y (fun s => s.y - 1) ⟨rfl, rfl, rfl⟩ (fun _ _ _ => rfl) fun _ => rfl⟩

end Instructions

end Sys2Proof.Machine
end

section
/-! SUPPORT. Jumps, subroutine calls and branches (`45_control_transfer.md`, R260 to R271): the place JMP
resolves to, the stack words of JSR and RTS, the branch rule on numbers, and the obligations about them. -/

namespace Sys2Proof.Machine

section Jumps

/-- JMP's modes resolve to a memory address, and to no crossed page (R137, R140). -/
theorem resolve_jmpModes_ok {o : Operand} {s w : State} {r : Resolved} (hmode : o.mode ∈ jmpModes)
    (hr : resolve o s = .ok r w) : ∃ ea, r = { loc := .memory ea, crossed := false } := by
  cases o with
  | absolute addr =>
    obtain ⟨rfl, -⟩ := Access.ok.inj hr
    exact ⟨addr, rfl⟩
  | indirect ptr =>
    obtain ⟨lo, s1, -, hr⟩ := Access.bind_eq_ok hr
    obtain ⟨hi, s2, -, hr⟩ := Access.bind_eq_ok hr
    obtain ⟨rfl, -⟩ := Access.ok.inj hr
    exact ⟨word hi lo, rfl⟩
  | _ => simp [jmpModes, Operand.mode] at hmode

theorem jmp_hasModes : HasModes .jmp .jmp jmpModes := ⟨fun _ => rfl, fun _ => rfl⟩

/-- JMP as the accesses that find its operand's place, then the jump there (R260). -/
theorem exec_jmp_eq {o : Operand} {c : Cost} (hc : (Instr.jmp o).cost = some c) (s : State) :
    exec (.jmp o) s =
      conclude s
        ((operandPlace (.jmp o) o s).bind fun r w =>
          .ok { crossed := r.crossed, taken := false } (jumpLocation r.loc w))
        (retire (.jmp o) s c) := by
  have hexec : exec (.jmp o) s = execJmp o s := rfl
  rw [hexec, execJmp, runInstr_eq hc]
  rfl

/-- The end of a JMP whose resolver moved nothing but the bus: the end of any instruction, PC apart. -/
theorem retire_jump_eq_after {i : Instr} {c : Cost} (hc : i.cost = some c) {s w : State}
    (hw : w = (s.advance i.length).setBus w.bus) (crossed : Bool) (ea : Word) :
    retire i s c { crossed := crossed, taken := false } (w.jump ea) =
      { after i s crossed w.bus s with pc := ea } := by
  have hAfter := retire_registerEffect hc (g := id) (fun _ _ _ => ⟨rfl, rfl⟩) hw crossed
  exact congrArg (State.setPc · ea) hAfter

/-- Settles O28: JMP is the resolver and then a jump, and the resolver makes reads only. -/
theorem jmpJumpsToTheResolvedAddress : Obligations.JmpJumpsToTheResolvedAddress := by
  refine ⟨fetchErrorEndsStep, jmp_hasModes.hasForms rfl (by decide), fun o s hwf => ?_⟩
  obtain ⟨c, hc⟩ := jmp_hasModes.exists_cost hwf
  rw [exec_jmp_eq hc]
  refine ⟨fun r w hr => ?_, fun e w hr => by rw [hr]; rfl⟩
  obtain ⟨ea, rfl⟩ := resolve_jmpModes_ok ((jmp_hasModes.wf_iff o).mp hwf) hr
  obtain ⟨hw, -⟩ := resolve_readsOnly o (s.advance (Instr.jmp o).length)
  rw [← operandPlace, hr, Access.final_ok] at hw
  rw [hr, Access.bind_ok, conclude_ok]
  exact ⟨ea, rfl, congrArg _ (retire_jump_eq_after hc hw false ea)⟩

end Jumps

section Subroutines

/-- Pushing a word, on the bytes pushed and the difference of SP (R82). -/
theorem pushWord_eq_pushedRam (v : Word) (s : State) :
    pushWord v s =
      .ok () ((s.setBus (s.bus.setRam (pushedRam s.bus.ram s.sp [hi8 v, lo8 v]))).setSp (s.sp - 2)) := by
  have hsp : s.sp - 1 - 1 = s.sp - 2 := by bv_omega
  rw [pushWord_eq, hsp]
  rfl

/-- Pulling a word, on the bytes above SP and the sum of SP (R82). -/
theorem pullWord_eq_stackByte (s : State) :
    pullWord s =
      .ok (word (stackByte s.bus.ram (s.sp + 2)) (stackByte s.bus.ram (s.sp + 1)))
        (s.setSp (s.sp + 2)) := by
  have hsp : s.sp + 1 + 1 = s.sp + 2 := by bv_omega
  rw [pullWord_eq, hsp]
  rfl

/-- Settles O29: JSR pushes a word, which never fails, and the word is PC past the three bytes, less 1. -/
theorem jsrPushesItsLastByteAddress : Obligations.JsrPushesItsLastByteAddress := by
  refine ⟨fetchErrorEndsStep, fun dest s => ⟨⟨rfl, rfl, rfl⟩, ?_⟩⟩
  have hc : (Instr.jsr dest).cost = some { base := 6, penalty := .none } := rfl
  have hret : (s.advance (Instr.jsr dest).length).pc - 1 = s.pc + 2 := by
    change s.pc + 3 - 1 = s.pc + 2
    bv_omega
  have hexec : exec (.jsr dest) s = execJsr dest s := rfl
  rw [hexec, execJsr, stackShape_eq hc, hret, pushWord_eq_pushedRam]
  rfl

/-- Settles O30: RTS pulls a word, which never fails, and jumps one past it. -/
theorem rtsReturnsPastTheCall : Obligations.RtsReturnsPastTheCall := by
  refine ⟨⟨rfl, rfl, rfl⟩, fun s => ?_⟩
  have hc : Instr.rts.cost = some { base := 6, penalty := .none } := rfl
  have hexec : exec .rts s = execRts s := rfl
  rw [hexec, execRts, stackShape_eq hc, pullWord_eq_stackByte]
  rfl

end Subroutines

section Branches

/-- The address of the instruction after a branch, on numbers (R263). -/
theorem add_two_eq_ofNat (pc : Word) : pc + 2 = BitVec.ofNat 16 (pc.toNat + 2) := by
  rw [BitVec.ofNat_add, BitVec.ofNat_toNat, BitVec.setWidth_eq]
  rfl

/-- The branch target on the integer displacement (R143, R12). -/
theorem branchTarget_eq_ofInt (next : Word) (d : Byte) :
    branchTarget next d = BitVec.ofInt 16 (next.toNat + displacement d) := by
  rw [BitVec.ofInt_add, ofInt_displacement, BitVec.ofInt_natCast, BitVec.ofNat_toNat,
    BitVec.setWidth_eq, branchTarget]

/-- The cycles a branch adds to its base (R168, R263). -/
theorem penaltyCycles_branch (target next : Word) (taken : Bool) :
    penaltyCycles .branch { crossed := hi8 target != hi8 next, taken := taken } =
      if taken then 1 + (if target.toNat / 256 = next.toNat / 256 then 0 else 1) else 0 := by
  have hcrossed : (hi8 target != hi8 next) = !decide (target.toNat / 256 = next.toNat / 256) := by
    rw [bne, beq_eq_decide, decide_eq_decide.mpr (hi8_eq_iff target next)]
  rw [hcrossed]
  cases taken <;> simp [penaltyCycles]

variable {mk : Byte → Instr} {op : Byte} {cond : State → Bool}

/-- The rule of an instruction of the branch shape, whose condition looks at the flags (R263). -/
theorem branchRule_of_branchShape (hform : ∀ d, HasForm (mk d) op 2 .branch)
    (hlength : ∀ d, (mk d).length = 2) (hpoll : ∀ d, delaysPoll (mk d) = false)
    (hexec : ∀ d s, exec (mk d) s = branchShape (mk d) d s (cond s)) : BranchRule mk op cond := by
  intro d s
  refine ⟨hform d, ?_⟩
  intro next target
  obtain ⟨-, -, hc⟩ := hform d
  have hnext : s.advance (mk d).length = s.setPc next := by
    rw [hlength]
    exact congrArg s.setPc (add_two_eq_ofNat s.pc)
  have htarget : branchTarget next d = target := branchTarget_eq_ofInt next d
  rw [hexec, branchShape_eq hc, hnext, State.setPc_pc, htarget, retire, hpoll, penaltyCycles_branch]
  cases cond s <;> rfl

/-- Settles O31: each of the eight is the branch shape around its flag. -/
theorem branchesFollowTheirFlag : Obligations.BranchesFollowTheirFlag := by
  refine ⟨fetchErrorEndsStep, ?_, ?_, ?_, ?_, ?_, ?_, ?_, ?_⟩ <;>
    exact branchRule_of_branchShape (fun _ => ⟨rfl, rfl, rfl⟩) (fun _ => rfl) (fun _ => rfl)
      fun _ _ => rfl

end Branches

end Sys2Proof.Machine
end

section
/-! SUPPORT. Stack, flag and system instructions (`46_stack_flag_system.md`, R280 to R293): the rules
of a flag write, a push and a pull, the vector read of a trap wherever PC stands, and the obligations about them. -/

namespace Sys2Proof.Machine

section Flags

/-- The rule of an Implicit-mode instruction that writes the one flag `f` (R284 to R290). -/
theorem impliedRule_setFlag {i : Instr} {op : Byte} {base : Nat} (f : Flag) (b : Bool)
    (hform : HasForm i op base .none)
    (hexec : ∀ s, exec i s = impliedShape i s fun w => w.setP (w.p.set f b)) :
    ImpliedRule i op base fun s => s.setP (s.p.set f b) :=
  impliedRule_of_impliedShape hform (fun _ _ _ => ⟨rfl, rfl⟩) hexec

/-- Settles O35: seven instructions are the Implicit shape around the writing of one flag, and NOP is
that shape around nothing. -/
theorem flagInstructionsWriteOneFlag : Obligations.FlagInstructionsWriteOneFlag :=
  ⟨impliedRule_setFlag .c false ⟨rfl, rfl, rfl⟩ fun _ => rfl,
    impliedRule_setFlag .c true ⟨rfl, rfl, rfl⟩ fun _ => rfl,
    impliedRule_setFlag .i false ⟨rfl, rfl, rfl⟩ fun _ => rfl,
    impliedRule_setFlag .i true ⟨rfl, rfl, rfl⟩ fun _ => rfl,
    impliedRule_setFlag .v false ⟨rfl, rfl, rfl⟩ fun _ => rfl,
    impliedRule_setFlag .d false ⟨rfl, rfl, rfl⟩ fun _ => rfl,
    impliedRule_setFlag .d true ⟨rfl, rfl, rfl⟩ fun _ => rfl,
    impliedRule_of_impliedShape ⟨rfl, rfl, rfl⟩ (fun _ _ _ => ⟨rfl, rfl⟩) fun _ => rfl⟩

end Flags

section Stack

/-- The pushed form of P on the mask that sets bits 4 and 5 (R55). -/
theorem Status.pushed_eq_or (p : Status) (brk : Bool) :
    p.pushed brk = p.byte ||| (if brk then 0x30 else 0x20) := by
  rw [Status.pushed, BitVec.or_assoc]
  cases brk <;> rfl

/-- The rule of an instruction that pushes the byte `v` of the state; `hv` says that `v` does not look at
PC. -/
theorem exec_of_push {i : Instr} {op : Byte} {base : Nat} {v : State → Byte}
    (hform : HasForm i op base .none) (hv : ∀ s pc, v (s.setPc pc) = v s)
    (hexec : ∀ s, exec i s = stackShape i s fun w => push (v w) w) (s : State) :
    exec i s = .next (after i s false (s.bus.setRam (pushedRam s.bus.ram s.sp [v s]))
      (s.setSp (s.sp - 1))) := by
  obtain ⟨-, -, hc⟩ := hform
  have hByte : v (s.advance i.length) = v s := hv s _
  rw [hexec, stackShape_eq hc, push_eq, hByte, conclude_ok]
  exact congrArg _ (retire_registerEffect hc (g := fun w => w.setSp (s.sp - 1))
    (fun _ _ _ => ⟨rfl, rfl⟩) (s := s) rfl false)

/-- The rule of an instruction that pulls a byte and has the effect `g` of it on registers and flags. -/
theorem exec_of_pull {i : Instr} {op : Byte} {base : Nat} {g : Byte → State → State}
    (hform : HasForm i op base .none) (hg : ∀ m, RegisterEffect (g m))
    (hexec : ∀ s, exec i s = stackShape i s fun w => (pull w).bind fun m w1 => .ok () (g m w1))
    (s : State) :
    exec i s = .next (after i s false s.bus
      (g (stackByte s.bus.ram (s.sp + 1)) (s.setSp (s.sp + 1)))) := by
  obtain ⟨-, -, hc⟩ := hform
  rw [hexec, stackShape_eq hc, pull_eq, Access.bind_ok, conclude_ok]
  exact congrArg _ (retire_registerEffect hc (hg _) (s := s.setSp (s.sp + 1)) rfl false)

/-- Settles O34: two instructions push a byte and two pull one, and neither a push nor a pull fails. -/
theorem stackInstructionsPushAndPull : Obligations.StackInstructionsPushAndPull := by
  have hPha : HasForm .pha 0x48 3 .none := ⟨rfl, rfl, rfl⟩
  have hPhp : HasForm .php 0x08 3 .none := ⟨rfl, rfl, rfl⟩
  have hPla : HasForm .pla 0x68 4 .none := ⟨rfl, rfl, rfl⟩
  have hPlp : HasForm .plp 0x28 4 .none := ⟨rfl, rfl, rfl⟩
  refine ⟨hPha, hPhp, hPla, hPlp, fun s => ⟨?_, ?_, ?_, ?_⟩⟩
  · exact exec_of_push (v := State.a) hPha (fun _ _ => rfl) (fun _ => rfl) s
  · have hPushed : s.p.pushed true = s.p.byte ||| 0x30 := s.p.pushed_eq_or true
    rw [exec_of_push (v := fun w => w.p.pushed true) hPhp (fun _ _ => rfl) (fun _ => rfl) s, hPushed]
    rfl
  · rw [exec_of_pull (g := fun m w => w.loadReg .a m) hPla (fun _ _ _ _ => ⟨rfl, rfl⟩) (fun _ => rfl) s,
      State.loadReg_eq]
    rfl
  · exact exec_of_pull (g := fun m w => w.setP (Status.load m)) hPlp (fun _ _ _ _ => ⟨rfl, rfl⟩)
      (fun _ => rfl) s

end Stack

section Traps

/-- What a piece of a step gives, with the map `g` applied to the state it ends in. -/
def Access.mapState {α : Type} (g : State → State) : Access α → Access α
  | .ok v s => .ok v (g s)
  | .err e s => .err e (g s)

@[simp] theorem Access.mapState_ok {α : Type} (g : State → State) (v : α) (s : State) :
    (Access.ok v s).mapState g = .ok v (g s) := rfl
@[simp] theorem Access.mapState_err {α : Type} (g : State → State) (e : BusError) (s : State) :
    (Access.err e s : Access α).mapState g = .err e (g s) := rfl

/-- The map `g` neither reads nor writes the bus. -/
structure KeepsBus (g : State → State) : Prop where
  bus_eq : ∀ s, (g s).bus = s.bus
  setBus_eq : ∀ s b, (g s).setBus b = g (s.setBus b)

theorem keepsBus_setPc (pc : Word) : KeepsBus (·.setPc pc) := ⟨fun _ => rfl, fun _ _ => rfl⟩

/-- A read looks at the bus alone (R71). -/
theorem memRead_mapState {g : State → State} (hg : KeepsBus g) (a : Word) (s : State) :
    memRead a (g s) = (memRead a s).mapState g := by
  simp only [memRead, hg.bus_eq, hg.setBus_eq]
  rcases busRead a s.bus with ⟨_ | v, b⟩ <;> rfl

theorem read16_mapState {g : State → State} (hg : KeepsBus g) (a : Word) (s : State) :
    read16 a (g s) = (read16 a s).mapState g := by
  rw [read16, read16, memRead_mapState hg]
  cases memRead a s with
  | err e w => rfl
  | ok lo w =>
    rw [Access.mapState_ok, Access.bind_ok, Access.bind_ok, memRead_mapState hg]
    cases memRead (a + 1) w <;> rfl

/-- The state in which a trap entry reads its vector, on the bytes pushed and the difference of SP
(R291, R320). -/
theorem trapEntered_eq (brk : Bool) (s : State) :
    trapEntered brk s =
      { s with
        sp := s.sp - 3
        p := { s.p with i := true }
        bus := s.bus.setRam (pushedRam s.bus.ram s.sp [hi8 s.pc, lo8 s.pc, s.p.pushed brk]) } := by
  have hsp : s.sp - 1 - 1 - 1 = s.sp - 3 := by bv_omega
  rw [trapEntered, hsp]
  rfl

/-- The state in which BRK reads its vector, PC apart (R291). -/
def brkEntered (s : State) : State :=
  { s with
    sp := s.sp - 3
    p := { s.p with i := true }
    bus := s.bus.setRam
      (pushedRam s.bus.ram s.sp [hi8 (s.pc + 2), lo8 (s.pc + 2), s.p.byte ||| 0x30]) }

/-- BRK's trap is taken with PC past the byte after the opcode (R291, R321). -/
theorem trapEntered_brk (s : State) :
    trapEntered true ((s.advance Instr.brk.length).advance 1) = (brkEntered s).setPc (s.pc + 2) := by
  have hpc : (s.advance Instr.brk.length).advance 1 = s.setPc (s.pc + 2) := by
    refine congrArg s.setPc ?_
    change s.pc + 1 + 1 = s.pc + 2
    bv_omega
  have hPushed : s.p.pushed true = s.p.byte ||| 0x30 := s.p.pushed_eq_or true
  rw [hpc, trapEntered_eq, State.setPc_p, hPushed]
  rfl

/-- BRK as its vector read, made after the pushes, and the jump there (R291). -/
theorem exec_brk_eq {c : Cost} (hc : Instr.brk.cost = some c) (s : State) :
    exec .brk s =
      conclude s
        (((read16 0xFFFE (brkEntered s)).mapState (·.setPc (s.pc + 2))).bind fun target w =>
          .ok () (w.jump target))
        fun _ w => retire .brk s c Flow.straight w := by
  have hexec : exec .brk s = execBrk s := rfl
  rw [hexec, execBrk, stackShape_eq hc, enterTrap_eq, trapEntered_brk,
    read16_mapState (keepsBus_setPc _)]
  rfl

section Brk

variable {s w : State}

/-- BRK when its vector can be read: the read moves the bus alone, and I is set by then, so that `i_poll`
is 1 (R291, R177). -/
theorem exec_brk_of_read16_ok {v : Word} (hr : read16 0xFFFE (brkEntered s) = .ok v w) :
    exec .brk s = .next { brkEntered s with
      pc := v, cycles := s.cycles + 7, iPoll := true, bus := w.bus } := by
  have hc : Instr.brk.cost = some { base := 7, penalty := .none } := rfl
  obtain ⟨hw, -⟩ := read16_readsOnly 0xFFFE (brkEntered s)
  rw [hr, Access.final_ok] at hw
  rw [exec_brk_eq hc, hr, hw]
  rfl

/-- BRK when its vector cannot be read: the pushes stand on the bus, and nothing else is committed
(R170). -/
theorem exec_brk_of_read16_err {e : BusError} (hr : read16 0xFFFE (brkEntered s) = .err e w) :
    exec .brk s = abortsAt s e w := by
  have hc : Instr.brk.cost = some { base := 7, penalty := .none } := rfl
  rw [exec_brk_eq hc, hr]
  rfl

end Brk

/-- Settles O36: the three pushes never fail, and the vector read after them decides. -/
theorem brkTakesTheTrap : Obligations.BrkTakesTheTrap :=
  ⟨⟨rfl, rfl, rfl⟩, fun _ => ⟨fun _ _ => exec_brk_of_read16_ok, fun _ _ => exec_brk_of_read16_err⟩⟩

/-- Settles O37: the three pulls of a return from a trap never fail, and they leave the new I in P. -/
theorem rtiRestoresStatusAndPc : Obligations.RtiRestoresStatusAndPc := by
  refine ⟨⟨rfl, rfl, rfl⟩, fun s => ?_⟩
  have hc : Instr.rti.cost = some { base := 6, penalty := .none } := rfl
  have hexec : exec .rti s = execRti s := rfl
  have hsp2 : s.sp + 1 + 1 = s.sp + 2 := by bv_omega
  have hsp3 : s.sp + 2 + 1 = s.sp + 3 := by bv_omega
  rw [hexec, execRti, stackShape_eq hc, returnFromTrap_eq, State.advance_eq, State.setPc_sp, hsp2, hsp3]
  rfl

end Traps

end Sys2Proof.Machine
end

section
/-! SUPPORT. Interrupt entry (`60_exceptions.md`, R318 to R320): when a step takes NMI or IRQ, and what
an entry leaves once its vector read has completed or failed. -/

namespace Sys2Proof.Machine

section Recognition

variable {s : State}

/-- With interrupt inputs, a pending NMI is recognised (R318). -/
theorem nmiRecognised_of_present (hc : s.cfg.interruptInputs = .present) :
    s.nmiRecognised = s.nmiPending := by
  rw [State.nmiRecognised, hc]
  exact Bool.and_true _

/-- With interrupt inputs, an asserted IRQ that `i_poll` does not mask is recognised (R318). -/
theorem irqRecognised_of_present (hc : s.cfg.interruptInputs = .present) :
    s.irqRecognised = (s.irqLine && !s.iPoll) := by
  rw [State.irqRecognised, hc]
  exact Bool.and_true _

/-- A recognised NMI is taken when no reset is requested (R160, R319). -/
theorem step_nmi (hr : s.resetPending = false) (hn : s.nmiRecognised = true) :
    step s = enterInterrupt .nmi s := by
  rw [step, hr, hn]
  rfl

/-- A recognised IRQ is taken when neither a reset nor an NMI goes before it (R160, R319). -/
theorem step_irq (hr : s.resetPending = false) (hn : s.nmiRecognised = false)
    (hi : s.irqRecognised = true) : step s = enterInterrupt .irq s := by
  rw [step, hr, hn, hi]
  rfl

end Recognition

section Entry

/-- The state in which an interrupt entry reads its vector: bit 4 of the pushed P is clear (R320). -/
def interruptEntered (s : State) : State :=
  { s with
    sp := s.sp - 3
    p := { s.p with i := true }
    bus := s.bus.setRam (pushedRam s.bus.ram s.sp [hi8 s.pc, lo8 s.pc, s.p.byte ||| 0x20]) }

theorem trapEntered_interrupt (s : State) : trapEntered false s = interruptEntered s := by
  have hPushed : s.p.pushed false = s.p.byte ||| 0x20 := s.p.pushed_eq_or false
  rw [trapEntered_eq, hPushed]
  rfl

/-- An interrupt entry as its vector read, made after the pushes, and the jump there (R320). -/
theorem enterInterrupt_eq (k : Interrupt) (s : State) :
    enterInterrupt k s =
      conclude s
        ((read16 k.vector (interruptEntered s)).bind fun target w => .ok () (w.jump target))
        fun _ w => finishEntry k w := by
  rw [enterInterrupt, enterTrap_eq, trapEntered_interrupt]

variable {k : Interrupt} {s w : State}

/-- An interrupt entry when its vector can be read: the read moves the bus alone (R320). -/
theorem enterInterrupt_of_read16_ok {v : Word}
    (hr : read16 k.vector (interruptEntered s) = .ok v w) :
    enterInterrupt k s =
      .next (finishEntry k { interruptEntered s with pc := v, bus := w.bus }) := by
  obtain ⟨hw, -⟩ := read16_readsOnly k.vector (interruptEntered s)
  rw [hr, Access.final_ok] at hw
  rw [enterInterrupt_eq, hr, hw]
  rfl

/-- An interrupt entry when its vector cannot be read: the pushes stand on the bus, and nothing else is
committed (R170, R320). -/
theorem enterInterrupt_of_read16_err {e : BusError}
    (hr : read16 k.vector (interruptEntered s) = .err e w) :
    enterInterrupt k s = abortsAt s e w := by
  rw [enterInterrupt_eq, hr]
  rfl

end Entry

/-- Settles O40: the recognised interrupt is the one whose entry the step is, its three pushes never
fail, and the vector read after them decides. -/
theorem interruptEntry : Obligations.InterruptEntry := by
  intro s hReset hInputs
  have hNmi := nmiRecognised_of_present hInputs
  have hIrq := irqRecognised_of_present hInputs
  refine ⟨fun hPending => ?_, fun hPending hLine hPoll => ?_⟩
  · rw [step_nmi hReset (hNmi.trans hPending)]
    exact ⟨fun _ _ => enterInterrupt_of_read16_ok (k := .nmi),
      fun _ _ => enterInterrupt_of_read16_err (k := .nmi)⟩
  · have hTaken : s.irqRecognised = true := by rw [hIrq, hLine, hPoll]; rfl
    rw [step_irq hReset (hNmi.trans hPending) hTaken]
    exact ⟨fun _ _ => enterInterrupt_of_read16_ok (k := .irq),
      fun _ _ => enterInterrupt_of_read16_err (k := .irq)⟩

end Sys2Proof.Machine
end

section
/-! SUPPORT. The vector read of reset and power-on (`70_reset_and_hazards.md`, R350 to R353): what it
moves, where it can fail, and what the reset sequence and power-on make of it. -/

namespace Sys2Proof.Machine

section VectorRead

variable {a : Word} {s w : State}

/-- A word read that completes leaves the state but for the bus, and the RAM as it was. -/
theorem read16_ok_readsOnly {v : Word} (hr : read16 a s = .ok v w) : ReadsOnly s w := by
  have h := read16_readsOnly a s
  rwa [hr] at h

/-- A word read fails as a byte read at one of its two addresses (R15, R80). -/
theorem read16_eq_err {e : BusError} (hr : read16 a s = .err e w) :
    e.kind = .read ∧ (e.addr = a ∨ e.addr = a + 1) := by
  rcases Access.bind_eq_err hr with hLow | ⟨lo, s₁, -, hRest⟩
  · obtain ⟨-, rfl, -⟩ := memRead_eq_err hLow
    exact ⟨rfl, .inl rfl⟩
  · rcases Access.bind_eq_err hRest with hHigh | ⟨hi, s₂, -, hWord⟩
    · obtain ⟨-, rfl, -⟩ := memRead_eq_err hHigh
      exact ⟨rfl, .inr rfl⟩
    · cases hWord

end VectorRead

section Reset

variable {s w : State}

/-- A requested reset is taken before anything else (R160, R352). -/
theorem step_reset (h : s.resetPending = true) : step s = takeReset s := by
  rw [step, h]
  rfl

/-- The reset sequence when its vector can be read: the read moves the bus alone (R352). -/
theorem takeReset_of_read16_ok {v : Word} (hr : read16 0xFFFC s = .ok v w) :
    takeReset s = .next { s with
      pc := v, cycles := 0, p := { s.p with i := true }, sp := s.sp - 3
      resetPending := false, nmiPending := false, iPoll := true, bus := w.bus } := by
  obtain ⟨hw, -⟩ := read16_ok_readsOnly hr
  rw [takeReset, resetVector, hr, hw]
  rfl

/-- The reset sequence when its vector cannot be read (R353). -/
theorem takeReset_of_read16_err {e : BusError} (hr : read16 0xFFFC s = .err e w) :
    takeReset s = abortsAt s e w := by
  rw [takeReset, resetVector, hr]
  rfl

end Reset

/-- Settles O39: a pending request makes the step the reset sequence, and its one vector read decides. -/
theorem resetSequence : Obligations.ResetSequence := by
  intro s hPending
  rw [step_reset hPending]
  exact ⟨fun _ _ => takeReset_of_read16_ok, fun _ _ => takeReset_of_read16_err⟩

section PowerOn

variable {p : PowerOn} {w : State}

/-- Power-on when its vector can be read: the initial state at that address, with the bus the two reads
left (R350). -/
theorem powerOn_of_read16_ok {v : Word} (hr : read16 0xFFFC p.initial = .ok v w) :
    powerOn p = .ok ((p.initial.setBus w.bus).jump v) := by
  obtain ⟨hw, -⟩ := read16_ok_readsOnly hr
  rw [powerOn, resetVector, hr, ← hw]

/-- Power-on when its vector cannot be read: there is no state (R350). -/
theorem powerOn_of_read16_err {e : BusError} (hr : read16 0xFFFC p.initial = .err e w) :
    powerOn p = .error e := by
  rw [powerOn, resetVector, hr]

end PowerOn

/-- Settles O59: the vector read moves the bus alone and on it no byte of the RAM, so that all other
values are those of the initial state; it fails as a read of one of the vector's two bytes. -/
theorem powerOnValues : Obligations.PowerOnValues := by
  refine fun p => ⟨fun v w hr => ?_, fun e w hr => ?_⟩
  · obtain ⟨-, hRam, -⟩ := read16_ok_readsOnly hr
    refine ⟨_, powerOn_of_read16_ok hr, ?_⟩
    simp [PowerOn.initial, Status.get, hRam]
  · exact ⟨powerOn_of_read16_err hr, read16_eq_err hr⟩

end Sys2Proof.Machine
end

section
/-! SUPPORT. The decoder and the encoder are inverse (`30_encoding.md`, R100 to R109): the bytes of a word
and of an operand form, the decoder on an opcode and the bytes after it, what the table and the
`Encoding:` lines say of each other, and the obligations about them. -/

namespace Sys2Proof.Machine

section Words

@[simp] theorem lo8_word (hi lo : Byte) : lo8 (word hi lo) = lo := BitVec.extractLsb'_append_eq_right

@[simp] theorem hi8_word (hi lo : Byte) : hi8 (word hi lo) = hi := BitVec.extractLsb'_append_eq_left

@[simp] theorem word_hi8_lo8 (w : Word) : word (hi8 w) (lo8 w) = w :=
  (BitVec.extractLsb'_append_extractLsb'_eq_extractLsb' rfl).trans BitVec.extractLsb'_eq_self

end Words

section Operands

theorem length_bytes (o : Operand) : o.bytes.length = operandCount o.mode := by
  cases o <;> rfl

/-- An operand form is read back from its bytes (R103). -/
theorem operandOf_bytes (o : Operand) :
    operandOf o.mode (o.bytes.getD 0 0) (o.bytes.getD 1 0) = some o := by
  cases o <;> simp [operandOf, Operand.mode, Operand.bytes]

/-- The modes of the operand forms give a form of that mode, whose bytes are those consumed (R101). -/
theorem exists_operandOf {mode : Mode} (h : mode ∉ [Mode.implicit, .relative]) (lo hi : Byte) :
    ∃ o, operandOf mode lo hi = some o ∧ o.mode = mode
      ∧ o.bytes = [lo, hi].take (operandCount mode) := by
  cases mode with
  | implicit => exact absurd h (by decide)
  | relative => exact absurd h (by decide)
  | absolute | absoluteX | absoluteY | indirect =>
    exact ⟨_, rfl, rfl, by simp [Operand.bytes, operandCount]⟩
  | _ => exact ⟨_, rfl, rfl, rfl⟩

/-- An instruction has the operand bytes its mode consumes (R144). -/
theorem length_operandBytes {i : Instr} {m : Mnemonic} {mode : Mode}
    (h : i.operation = some (m, mode)) : i.operandBytes.length = operandCount mode := by
  cases i with
  | lda o | ldx o | ldy o | sta o | stx o | sty o | adc o | sbc o | and o | ora o | eor o | cmp o
  | cpx o | cpy o | bit o | asl o | lsr o | rol o | ror o | inc o | dec o | jmp o =>
    cases h
    exact length_bytes o
  | illegal op => cases h
  | _ =>
    cases h
    rfl

/-- The instruction of an operation is built again from its operand bytes (R102, R103). -/
theorem build_operandBytes {i : Instr} {m : Mnemonic} {mode : Mode}
    (h : i.operation = some (m, mode)) :
    build m mode (i.operandBytes.getD 0 0) (i.operandBytes.getD 1 0) = some i := by
  cases i with
  | lda o | ldx o | ldy o | sta o | stx o | sty o | adc o | sbc o | and o | ora o | eor o | cmp o
  | cpx o | cpy o | bit o | asl o | lsr o | rol o | ror o | inc o | dec o | jmp o =>
    cases h
    exact congrArg (Option.map _) (operandOf_bytes o)
  | jsr dest =>
    cases h
    exact congrArg (some ∘ Instr.jsr) (word_hi8_lo8 dest)
  | illegal op => cases h
  | _ =>
    cases h
    rfl

end Operands

section Decoder

theorem operandCountOf_le (op : Byte) : operandCountOf op ≤ 2 := by
  unfold operandCountOf
  split
  · next mode _ _ _ => cases mode <;> decide
  · decide
  · decide

/-- The decoder on an opcode followed by its operand bytes (R109). -/
theorem decode_operandBytes {op : Byte} {bytes : List Byte} (h : bytes.length = operandCountOf op)
    (rest : List Byte) :
    decode (op :: (bytes ++ rest)) = .ok (instrOf op (bytes.getD 0 0) (bytes.getD 1 0), rest) := by
  have hle := operandCountOf_le op
  simp only [decode, ← h]
  match bytes with
  | [] => rfl
  | [lo] => rfl
  | [lo, hi] => rfl
  | _ :: _ :: _ :: t =>
    simp only [List.length_cons] at h
    omega

/-- The decoder on an opcode whose operand bytes are not all there (log 15). -/
theorem decode_truncated {op : Byte} {bytes : List Byte} (h : bytes.length < operandCountOf op) :
    decode (op :: bytes) = .error (.truncated op) := by
  simp only [decode]
  split
  · omega
  · next hn =>
    simp only [hn, List.length_cons] at h
    omega
  · next hn =>
    have hle := operandCountOf_le op
    simp only [hn, List.length_cons] at h hle
    omega
  · rfl

/-- The decoder on an opcode whose operand bytes are all there (R109). -/
theorem decode_cons {op : Byte} {bytes : List Byte} (h : operandCountOf op ≤ bytes.length) :
    ∃ lo hi, decode (op :: bytes) = .ok (instrOf op lo hi, bytes.drop (operandCountOf op))
      ∧ bytes.take (operandCountOf op) = [lo, hi].take (operandCountOf op) := by
  have hle := operandCountOf_le op
  have hlength : (bytes.take (operandCountOf op)).length = operandCountOf op := by
    rw [List.length_take]
    omega
  have hdecode := decode_operandBytes hlength (bytes.drop (operandCountOf op))
  rw [List.take_append_drop] at hdecode
  refine ⟨_, _, hdecode, ?_⟩
  match bytes.take (operandCountOf op), hlength with
  | [], hn => rw [← hn]; rfl
  | [lo], hn => rw [← hn]; rfl
  | [lo, hi], hn => rw [← hn]; rfl
  | _ :: _ :: _ :: t, hn =>
    simp only [List.length_cons] at hn
    omega

end Decoder

section RoundTrip

theorem operandCountOf_documented {op : Byte} {m : Mnemonic} {mode : Mode} {base : Nat}
    {penalty : Penalty} (h : entryAt op = some (.documented m mode base penalty)) :
    operandCountOf op = operandCount mode := by
  rw [operandCountOf, h]

theorem instrOf_documented {op lo hi : Byte} {m : Mnemonic} {mode : Mode} {base : Nat}
    {penalty : Penalty} {i : Instr} (h : entryAt op = some (.documented m mode base penalty))
    (hb : build m mode lo hi = some i) : instrOf op lo hi = i := by
  rw [instrOf, h]
  simp only [hb, Option.getD_some]

theorem instrOf_illegal {op : Byte} (h : entryAt op = some .illegal) (lo hi : Byte) :
    instrOf op lo hi = .illegal op := by
  rw [instrOf, h]

theorem operandCountOf_illegal {op : Byte} (h : entryAt op = some .illegal) :
    operandCountOf op = 0 := by
  rw [operandCountOf, h]

theorem encode_of_opcode {i : Instr} {op : Byte} (h : i.opcode = some op) :
    encode i = op :: i.operandBytes := by
  rw [encode, h]

/-- The opcode of a well-formed instruction says how many operand bytes it has, and it is the
instruction that the opcode and those bytes stand for. -/
theorem opcode_of_wf {i : Instr} (h : i.wf = true) :
    ∃ op, i.opcode = some op ∧ i.operandBytes.length = operandCountOf op
      ∧ instrOf op (i.operandBytes.getD 0 0) (i.operandBytes.getD 1 0) = i := by
  have hTable := Laws.opcodeInTable i h
  cases hop : i.operation with
  | some mm =>
    obtain ⟨m, mode⟩ := mm
    rw [hop] at hTable
    obtain ⟨op, c, hOpcode, -, hEntry⟩ := hTable
    refine ⟨op, hOpcode, ?_, instrOf_documented hEntry (build_operandBytes hop)⟩
    rw [length_operandBytes hop, operandCountOf_documented hEntry]
  | none =>
    cases i with
    | illegal op =>
      have hEntry := Laws.illegalOpcodes_entry op (List.contains_iff_mem.mp h)
      exact ⟨op, rfl, (operandCountOf_illegal hEntry).symm, instrOf_illegal hEntry _ _⟩
    | _ => cases hop

/-- Settles O1: the opcode's entry in the table gives back the operation and the mode, and the operand
bytes the operand. -/
theorem decodeEncodeRoundTrip : Obligations.DecodeEncodeRoundTrip := by
  intro i rest h
  obtain ⟨op, hOpcode, hLength, hInstr⟩ := opcode_of_wf h
  rw [encode_of_opcode hOpcode, List.cons_append, decode_operandBytes hLength, hInstr]

end RoundTrip

section Table

/-- What the `Encoding:` lines say of an entry at an opcode: a documented entry stands there under its
mode, an illegal one is on the list of rule R107. -/
def listedAt (op : Byte) : Option Entry → Bool
  | some (.documented m mode _ _) => opcodeIn mode (opcodesOf m) == some op
  | some .illegal => illegalOpcodes.contains op
  | none => false

theorem listedAt_entryAt : ∀ op, listedAt op (entryAt op) = true := by decide

/-- Each opcode is illegal, as rule R107 lists it, or documented, as an `Encoding:` line lists it. -/
theorem entryAt_cases (op : Byte) :
    (op ∈ illegalOpcodes ∧ entryAt op = some .illegal)
    ∨ ∃ m mode base penalty, entryAt op = some (.documented m mode base penalty)
      ∧ opcodeIn mode (opcodesOf m) = some op := by
  have h := listedAt_entryAt op
  cases he : entryAt op with
  | none =>
    rw [he] at h
    cases h
  | some e =>
    rw [he] at h
    cases e with
    | illegal => exact .inl ⟨List.contains_iff_mem.mp h, rfl⟩
    | documented m mode base penalty => exact .inr ⟨m, mode, base, penalty, rfl, beq_iff_eq.mp h⟩

theorem mem_of_opcodeIn {mode : Mode} {op : Byte} {rows : List (Mode × Byte)}
    (h : opcodeIn mode rows = some op) : mode ∈ rows.map Prod.fst := by
  induction rows with
  | nil => cases h
  | cons row t ih =>
    obtain ⟨mode', op'⟩ := row
    rw [opcodeIn] at h
    split at h
    · next heq => exact List.mem_cons.mpr (.inl heq.symm)
    · exact List.mem_cons_of_mem _ (ih h)

/-- What `build` makes of an operation, its mode and two bytes: a well-formed instruction of that
operation, whose operand bytes are those the mode consumes. -/
structure BuiltFrom (m : Mnemonic) (mode : Mode) (lo hi : Byte) (i : Instr) : Prop where
  build_eq : build m mode lo hi = some i
  operation_eq : i.operation = some (m, mode)
  wf : i.wf = true
  operandBytes_eq : i.operandBytes = [lo, hi].take (operandCount mode)

variable {m : Mnemonic} {mode : Mode}

/-- A mnemonic whose instructions carry an operand form builds an instruction in each listed mode. -/
theorem exists_builtFrom_of_hasModes {mk : Operand → Instr}
    (hbuild : ∀ mode lo hi, build m mode lo hi = (operandOf mode lo hi).map mk)
    (h : HasModes mk m ((opcodesOf m).map Prod.fst)) (hbytes : ∀ o, (mk o).operandBytes = o.bytes)
    (hforms : ∀ mode ∈ (opcodesOf m).map Prod.fst, mode ∉ [Mode.implicit, .relative])
    (hmode : mode ∈ (opcodesOf m).map Prod.fst) (lo hi : Byte) : ∃ i, BuiltFrom m mode lo hi i := by
  obtain ⟨o, ho, rfl, hob⟩ := exists_operandOf (hforms mode hmode) lo hi
  refine ⟨mk o, ?_, h.operation_eq o, (h.wf_iff o).mpr hmode, (hbytes o).trans hob⟩
  rw [hbuild, ho]
  rfl

/-- Every operation builds an instruction in each mode of its `Encoding:` line (R102). -/
theorem exists_builtFrom (hmode : mode ∈ (opcodesOf m).map Prod.fst) (lo hi : Byte) :
    ∃ i, BuiltFrom m mode lo hi i := by
  cases m with
  | lda | ldx | ldy | sta | stx | sty | adc | sbc | and | ora | eor | cmp | cpx | cpy | bit
  | asl | lsr | rol | ror | inc | dec | jmp =>
    exact exists_builtFrom_of_hasModes (fun _ _ _ => rfl) ⟨fun _ => rfl, fun _ => rfl⟩
      (fun _ => rfl) (by decide) hmode lo hi
  | jsr =>
    obtain rfl := List.mem_singleton.mp hmode
    exact ⟨.jsr (word hi lo), rfl, rfl, rfl, by simp [Instr.operandBytes, operandCount]⟩
  | _ =>
    obtain rfl := List.mem_singleton.mp hmode
    exact ⟨_, rfl, rfl, rfl, rfl⟩

/-- The instruction of an opcode is well formed, has that opcode, and has the operand bytes that the
opcode counts. -/
theorem instrOf_wf (op lo hi : Byte) :
    (instrOf op lo hi).wf = true ∧ (instrOf op lo hi).opcode = some op
      ∧ (instrOf op lo hi).operandBytes = [lo, hi].take (operandCountOf op)
      ∧ (instrOf op lo hi).length = 1 + operandCountOf op := by
  rcases entryAt_cases op with ⟨hMem, hEntry⟩ | ⟨m, mode, base, penalty, hEntry, hIn⟩
  · rw [instrOf_illegal hEntry, operandCountOf_illegal hEntry]
    exact ⟨List.contains_iff_mem.mpr hMem, rfl, rfl, rfl⟩
  · obtain ⟨i, hBuild, hOperation, hWf, hBytes⟩ := exists_builtFrom (mem_of_opcodeIn hIn) lo hi
    rw [instrOf_documented hEntry hBuild, operandCountOf_documented hEntry, Instr.length, hOperation]
    exact ⟨hWf, (opcode_of_operation hOperation).trans hIn, hBytes, rfl⟩

/-- Settles O2: the decoder splits off the operand bytes that the opcode counts, and the instruction of
the opcode and those bytes is encoded by them. -/
theorem decodingLosesNoBit : Obligations.DecodingLosesNoBit := by
  refine ⟨fun bytes i rest h => ?_, fun op rest => ⟨fun hle => ?_, decode_truncated⟩⟩
  · match bytes with
    | [] => cases h
    | op :: tail =>
      rcases Nat.lt_or_ge tail.length (operandCountOf op) with hlt | hge
      · cases (decode_truncated hlt).symm.trans h
      · obtain ⟨lo, hi, hDecode, hTake⟩ := decode_cons hge
        obtain ⟨hWf, hOpcode, hBytes, -⟩ := instrOf_wf op lo hi
        cases hDecode.symm.trans h
        refine ⟨hWf, ?_⟩
        rw [encode_of_opcode hOpcode, hBytes, ← hTake, List.cons_append, List.take_append_drop]
  · obtain ⟨lo, hi, hDecode, -⟩ := decode_cons hle
    obtain ⟨-, -, -, hLength⟩ := instrOf_wf op lo hi
    exact ⟨_, hDecode, hLength⟩

/-- Settles O3: the table lists the values of rule R107 as illegal and every other value under an
`Encoding:` line, whose operation builds an instruction. -/
theorem illegalEntriesAreTheListed : Obligations.IllegalEntriesAreTheListed := by
  refine ⟨by decide, by decide, fun op h => ?_, fun op h => ?_⟩
  · exact ⟨Laws.illegalOpcodes_entry op h, instrOf_of_mem_illegalOpcodes h 0 0⟩
  · rcases entryAt_cases op with ⟨hMem, -⟩ | ⟨m, mode, base, penalty, hEntry, hIn⟩
    · exact absurd hMem h
    · obtain ⟨i, hBuild, hOperation, -, -⟩ := exists_builtFrom (mem_of_opcodeIn hIn) 0 0
      rw [instrOf_documented hEntry hBuild]
      exact ⟨m, mode, base, penalty, hEntry, hOperation⟩

/-- Settles O4: the decoder is run on each of the eight words. -/
theorem specWordsDecode : Obligations.SpecWordsDecode := by
  unfold Obligations.SpecWordsDecode
  decide

end Table

end Sys2Proof.Machine
end

section
/-! SUPPORT. What reads leave, when a bus access fails (`20_memory.md`, R78 to R81), the addressing modes
on numbers (`40_addressing_modes.md`, R131 to R142), and the obligations about them. -/

namespace Sys2Proof.Machine

section Reads

variable {α : Type} {r : Access α} {s w : State}

theorem ReadsOnly.of_ok {v : α} (h : ReadsOnly s r.final) (hr : r = .ok v w) : ReadsOnly s w := by
  rwa [hr] at h

theorem ReadsOnly.of_err {e : BusError} (h : ReadsOnly s r.final) (hr : r = .err e w) :
    ReadsOnly s w := by
  rwa [hr] at h

end Reads

section DeviceAccess

variable {o : Owner} {a addr : Word} {v : Byte} {b : Bus} {s : State}

/-- A collaborator gives no byte when it is unregistered, when the answer named is NoOwner, and when the
draw that stands for an unnamed answer does not own the address (R78, R80). -/
theorem deviceRead_eq_none_iff :
    (deviceRead o a b).1 = none ↔ (b.collaborator o).registered = false
      ∨ namedAnswer (b.collaborator o).named a.toNat = some .noOwner
      ∨ namedAnswer (b.collaborator o).named a.toNat = none ∧ b.draw.owned = false := by
  have hdraw : (b.record (.read o a)).draw = b.draw := rfl
  cases hreg : (b.collaborator o).registered with
  | false => simp [deviceRead_unregistered hreg]
  | true =>
    cases hnamed : namedAnswer (b.collaborator o).named a.toNat with
    | none => simp [deviceRead, hreg, hnamed, hdraw]
    | some answer => cases answer <;> simp [deviceRead, hreg, hnamed]

/-- A collaborator refuses a write when it is unregistered and when the draw does not own the address. -/
theorem deviceWrite_eq_false_iff :
    (deviceWrite o a v b).1 = false ↔
      (b.collaborator o).registered = false ∨ b.draw.owned = false := by
  have hdraw : (b.record (.write o a v)).draw = b.draw := rfl
  cases hreg : (b.collaborator o).registered with
  | false => simp [deviceWrite_unregistered hreg]
  | true => simp [deviceWrite, hreg, hdraw]

/-- Only an address outside the RAM window can have no owner (R74). -/
theorem busRead_eq_none_iff :
    (busRead addr b).1 = none ↔ ∃ o a, target addr = .device o a ∧ (deviceRead o a b).1 = none := by
  cases h : target addr with
  | ram i => simp [busRead, h]
  | device o a => simp [busRead_device h]

theorem busWrite_eq_false_iff :
    (busWrite addr v b).1 = false ↔
      ∃ o a, target addr = .device o a ∧ (deviceWrite o a v b).1 = false := by
  cases h : target addr with
  | ram i => simp [busWrite, h]
  | device o a => simp [busWrite_device h]

theorem memRead_fails_iff : (∃ e w, memRead addr s = .err e w) ↔ (busRead addr s.bus).1 = none := by
  refine ⟨fun ⟨e, w, h⟩ => (memRead_eq_err h).1, fun h => ?_⟩
  cases hr : memRead addr s with
  | err e w => exact ⟨e, w, rfl⟩
  | ok u w => cases (memRead_eq_ok hr).1.symm.trans h

theorem memWrite_fails_iff :
    (∃ e w, memWrite addr v s = .err e w) ↔ (busWrite addr v s.bus).1 = false := by
  refine ⟨fun ⟨e, w, h⟩ => (memWrite_eq_err h).1, fun h => ?_⟩
  cases hr : memWrite addr v s with
  | err e w => exact ⟨e, w, rfl⟩
  | ok u w => cases (memWrite_eq_ok hr).1.symm.trans h

/-- Settles O7: an access fails as the bus finds no owner, and a failing access makes reads only. -/
theorem addressErrorExactlyWithoutOwner : Obligations.AddressErrorExactlyWithoutOwner := by
  intro addr v s
  refine ⟨?_, ?_, fun e w h => ?_, fun e w h => ?_⟩
  · simp only [memRead_fails_iff, busRead_eq_none_iff, deviceRead_eq_none_iff]
  · simp only [memWrite_fails_iff, busWrite_eq_false_iff, deviceWrite_eq_false_iff]
  · obtain ⟨hw, hram, hdevices⟩ := (memRead_readsOnly addr s).of_err h
    exact ⟨(memRead_eq_err h).2.1, hw, hram, hdevices⟩
  · obtain ⟨hw, hram, hdevices⟩ := memWrite_err_readsOnly h
    exact ⟨(memWrite_eq_err h).2.1, hw, hram, hdevices⟩

/-- A write to a registered collaborator is recorded, whatever it is answered (R79, log 9). -/
theorem deviceWrite_calls (h : (b.collaborator o).registered = true) :
    (deviceWrite o a v b).2.calls = b.calls ++ [.write o a v] := by
  simp [deviceWrite, h]

/-- Settles O8: a write outside the RAM window is the write of the collaborator decoded. -/
theorem forwardedWritesAreRecorded : Obligations.ForwardedWritesAreRecorded := by
  intro addr a v b o h
  rw [busWrite_device h]
  exact ⟨deviceWrite_ram .., deviceWrite_calls, fun hreg => deviceWrite_unregistered hreg a v⟩

end DeviceAccess

section Numbers

theorem zext16_eq_ofNat (b : Byte) : zext16 b = BitVec.ofNat 16 b.toNat :=
  (BitVec.ofNat_toNat 16 b).symm

/-- A sum of bytes stays in page zero (R134 to R136). -/
theorem zext16_add (b x : Byte) : zext16 (b + x) = BitVec.ofNat 16 ((b.toNat + x.toNat) % 256) := by
  rw [zext16_eq_ofNat, BitVec.toNat_add]

theorem toNat_word (hi lo : Byte) : (word hi lo).toNat = 256 * hi.toNat + lo.toNat := by
  rw [word, BitVec.toNat_append, ← Nat.shiftLeft_add_eq_or_of_lt lo.isLt, Nat.shiftLeft_eq]
  omega

theorem word_eq_ofNat (hi lo : Byte) : word hi lo = BitVec.ofNat 16 (256 * hi.toNat + lo.toNat) := by
  rw [← toNat_word, BitVec.ofNat_toNat, BitVec.setWidth_eq]

theorem toNat_lo8 (w : Word) : (lo8 w).toNat = w.toNat % 256 := by
  rw [lo8, BitVec.extractLsb'_toNat]
  rfl

theorem toNat_hi8 (w : Word) : (hi8 w).toNat = w.toNat / 256 := by
  rw [hi8, BitVec.extractLsb'_toNat, Nat.shiftRight_eq_div_pow]
  have := w.isLt
  omega

/-- The second byte of a JMP pointer is read in the page of the first (R140). -/
theorem pointerHighAddr_eq (ptr : Word) :
    pointerHighAddr ptr =
      BitVec.ofNat 16 (ptr.toNat / 256 * 256 + (ptr.toNat % 256 + 1) % 256) := by
  rw [pointerHighAddr, word_eq_ofNat, toNat_hi8, BitVec.toNat_add, toNat_lo8, Nat.mul_comm]
  rfl

/-- An indexed address on numbers, and the page test on page numbers (R138, R139, R142). -/
theorem exists_indexed_eq (base : Word) (x : Byte) :
    ∃ ea : Word, ea.toNat = (base.toNat + x.toNat) % 65536
      ∧ indexed base x = ⟨.memory ea, decide (ea.toNat / 256 ≠ base.toNat / 256)⟩ := by
  have hx : (zext16 x).toNat = x.toNat := BitVec.toNat_setWidth_of_le (by decide)
  refine ⟨base + zext16 x, by rw [BitVec.toNat_add, hx], ?_⟩
  have hcrossed : (hi8 (base + zext16 x) != hi8 base) =
      decide ((base + zext16 x).toNat / 256 ≠ base.toNat / 256) := by
    rw [bne, beq_eq_decide, decide_eq_decide.mpr (hi8_eq_iff _ base), decide_not]
  rw [indexed, hcrossed]

end Numbers

section Resolver

/-- Settles O9: the sum of two bytes wraps modulo 256 before it becomes an address. -/
theorem zeroPageIndexWraps : Obligations.ZeroPageIndexWraps := by
  intro b s
  simp only [resolve, zext16_add, and_true]
  rw [zext16_eq_ofNat]

/-- Settles O10: both indexed forms are the indexed address of their register. -/
theorem absoluteIndexWrapsAndCrosses : Obligations.AbsoluteIndexWrapsAndCrosses := by
  intro base s
  obtain ⟨eaX, hX, hXeq⟩ := exists_indexed_eq base s.x
  obtain ⟨eaY, hY, hYeq⟩ := exists_indexed_eq base s.y
  exact ⟨rfl, ⟨eaX, hX, congrArg (Access.ok · s) hXeq⟩, eaY, hY, congrArg (Access.ok · s) hYeq⟩

/-- Settles O11: the resolver's two reads, with the second address and the word on numbers. -/
theorem indirectPointerWrapsInPage : Obligations.IndirectPointerWrapsInPage := by
  intro ptr s
  simp only [resolve, pointerHighAddr_eq, word_eq_ofNat]

/-- Settles O12: a zero-page pointer is read without fail, and its two indices are sums of bytes. -/
theorem zeroPagePointersWrap : Obligations.ZeroPagePointersWrap := by
  intro b s
  obtain ⟨ea, hea, heq⟩ :=
    exists_indexed_eq (word (s.bus.ram.read ((b.toNat + 1) % 256)) (s.bus.ram.read b.toNat)) s.y
  refine ⟨?_, _, ea, rfl, hea, ?_⟩
  · have hnext : (b + s.x + 1).toNat = (b.toNat + s.x.toNat + 1) % 256 := by
      bv_omega
    simp only [resolve, zpRead16_eq, Access.bind_ok, hnext, BitVec.toNat_add b s.x]
  · have hnext : (b + 1).toNat = (b.toNat + 1) % 256 := BitVec.toNat_add b 1
    simp only [resolve, zpRead16_eq, Access.bind_ok, hnext, heq]

/-- A form whose address is not indexed by 16 bits never leaves its page (R146). -/
theorem resolve_crossed {o : Operand} {s w : State} {r : Resolved} (h : resolve o s = .ok r w)
    (hc : r.crossed = true) : o.mode = .absoluteX ∨ o.mode = .absoluteY ∨ o.mode = .indirectY := by
  cases o with
  | absoluteX addr => exact .inl rfl
  | absoluteY addr => exact .inr (.inl rfl)
  | indirectY zp => exact .inr (.inr rfl)
  | indirect ptr =>
    obtain ⟨_, rfl⟩ := resolve_jmpModes_ok (o := .indirect ptr) (by simp [jmpModes, Operand.mode]) h
    cases hc
  | indirectX zp =>
    obtain ⟨ea, s1, -, h⟩ := Access.bind_eq_ok h
    cases h
    cases hc
  | _ =>
    cases h
    cases hc

/-- Settles O13: only the 16-bit indexed forms test the page, and the resolver makes reads only. -/
theorem resolverCrossesOnlyWhenIndexed : Obligations.ResolverCrossesOnlyWhenIndexed := by
  intro o s w r h
  obtain ⟨hw, hram, hdevices⟩ := (resolve_readsOnly o s).of_ok h
  exact ⟨resolve_crossed h, hw, hram, hdevices⟩

end Resolver

end Sys2Proof.Machine
end

section
/-! SUPPORT. What every instruction keeps: the frame of the accesses and effects it is made of, what a
failing access of it leaves on the bus, and what it costs (`41_fetch_dispatch.md`, R168 to R170). -/

namespace Sys2Proof.Machine

section Frame

/-- From `s` to `w` only registers, flags, `i_poll` and bytes of the RAM were written, and calls made. -/
structure Framed (s w : State) : Prop where
  cfg : w.cfg = s.cfg
  resetPending : w.resetPending = s.resetPending
  nmiPending : w.nmiPending = s.nmiPending
  irqLine : w.irqLine = s.irqLine
  cycles : w.cycles = s.cycles
  devices : s.bus.SameDevices w.bus
  ram_wf : Memory.wf s.bus.ram → Memory.wf w.bus.ram

/-- The registers, PC and the flags are free. -/
theorem framed_registers (s : State) (a x y sp : Byte) (pc : Word) (p : Status) :
    Framed s { s with a := a, x := x, y := y, sp := sp, pc := pc, p := p } :=
  ⟨rfl, rfl, rfl, rfl, rfl, .refl _, id⟩

theorem Framed.refl (s : State) : Framed s s := framed_registers ..

theorem Framed.trans {s w u : State} (h : Framed s w) (h' : Framed w u) : Framed s u where
  cfg := h'.cfg.trans h.cfg
  resetPending := h'.resetPending.trans h.resetPending
  nmiPending := h'.nmiPending.trans h.nmiPending
  irqLine := h'.irqLine.trans h.irqLine
  cycles := h'.cycles.trans h.cycles
  devices := h.devices.trans h'.devices
  ram_wf := h'.ram_wf ∘ h.ram_wf

theorem Framed.bind {α β : Type} {s : State} {r : Access α} {f : α → State → Access β}
    (h : Framed s r.final) (hf : ∀ v w, Framed w (f v w).final) : Framed s (r.bind f).final := by
  cases r with
  | ok v w => exact h.trans (hf v w)
  | err e w => exact h

theorem ReadsOnly.framed {s w : State} (h : ReadsOnly s w) : Framed s w := by
  obtain ⟨hw, hram, hdevices⟩ := h
  rw [hw]
  exact ⟨rfl, rfl, rfl, rfl, rfl, hdevices, fun hwf => (congrArg Memory.wf hram).mpr hwf⟩

theorem memWrite_framed (addr : Word) (v : Byte) (s : State) : Framed s (memWrite addr v s).final := by
  have hfinal : (memWrite addr v s).final = s.setBus (busWrite addr v s.bus).2 := by
    cases h : memWrite addr v s with
    | ok u w => exact (memWrite_eq_ok h).2
    | err e w => exact (memWrite_eq_err h).2.2
  rw [hfinal]
  exact ⟨rfl, rfl, rfl, rfl, rfl, busWrite_devices .., busWrite_wf⟩

theorem writeLocation_framed (l : Location) (v : Byte) (s : State) :
    Framed s (writeLocation l v s).final := by
  cases l with
  | memory ea => exact memWrite_framed ea v s
  | _ => exact framed_registers ..

theorem push_framed (v : Byte) (s : State) : Framed s (push v s).final := by
  rw [push_eq]
  exact ⟨rfl, rfl, rfl, rfl, rfl, .refl _, fun h => Memory.write_wf h (stackIndex_lt s.sp) v⟩

theorem pull_framed (s : State) : Framed s (pull s).final := by
  rw [pull_eq]
  exact framed_registers ..

theorem pushWord_framed (v : Word) (s : State) : Framed s (pushWord v s).final :=
  (push_framed (hi8 v) s).bind fun _ w => push_framed (lo8 v) w

theorem pullWord_framed (s : State) : Framed s (pullWord s).final :=
  (pull_framed s).bind fun _ w => (pull_framed w).bind fun _ u => .refl u

theorem trapEntered_framed (brk : Bool) (s : State) : Framed s (trapEntered brk s) :=
  ⟨rfl, rfl, rfl, rfl, rfl, .refl _, fun h => trapRam_wf h ..⟩

theorem enterTrap_framed (vec : Word) (brk : Bool) (s : State) :
    Framed s (enterTrap vec brk s).final := by
  rw [enterTrap_eq]
  refine (trapEntered_framed brk s).trans ((read16_readsOnly vec _).framed.bind fun _ w => ?_)
  exact framed_registers ..

theorem returnFromTrap_framed (s : State) : Framed s (returnFromTrap s).final := by
  rw [returnFromTrap_eq]
  exact framed_registers ..

end Frame

section CleanFailure

variable {α β : Type} {s : State} {r : Access α} {f : α → State → Access β}

/-- If an access of the piece `r`, begun at `s`, fails, then no byte of the RAM has changed by then. -/
def FailsClean (s : State) (r : Access α) : Prop := ∀ e w, r = .err e w → w.bus.ram = s.bus.ram

theorem failsClean_ok (v : α) (w : State) : FailsClean s (Access.ok v w) :=
  fun _ _ h => by cases h

/-- The stack operations do not fail (R42). -/
theorem failsClean_of_eq_ok {v : α} {w : State} (h : r = .ok v w) : FailsClean s r := by
  rw [h]
  exact failsClean_ok v w

theorem ReadsOnly.failsClean (h : ReadsOnly s r.final) : FailsClean s r := by
  rintro e w rfl
  exact h.2.1

/-- After reads, a piece that fails clean. -/
theorem FailsClean.bind (h : ReadsOnly s r.final) (hf : ∀ v w, FailsClean w (f v w)) :
    FailsClean s (r.bind f) := by
  cases r with
  | ok v w => exact fun e u hu => (hf v w e u hu).trans h.2.1
  | err e w => exact ReadsOnly.failsClean h

/-- After a piece that fails clean, one that does not fail. -/
theorem FailsClean.bind_ok {g : α → State → β} {k : α → State → State} (h : FailsClean s r) :
    FailsClean s (r.bind fun v w => .ok (g v w) (k v w)) := by
  cases r with
  | ok v w => exact failsClean_ok _ _
  | err e w =>
    rintro e' w' ⟨⟩
    exact h e w rfl

theorem writeLocation_failsClean (l : Location) (v : Byte) (s : State) :
    FailsClean s (writeLocation l v s) := by
  cases l with
  | memory ea => exact fun e w h => (memWrite_err_readsOnly h).2.1
  | _ => exact failsClean_ok _ _

end CleanFailure

section Bodies

/-- What the own effect of every instruction keeps, and what a failing access in it leaves: only a trap
entry has written to the RAM before an access that can fail. -/
structure BodyRule (i : Instr) (body : State → Access Flow) : Prop where
  framed : ∀ w, Framed w (body w).final
  clean : i ≠ .brk → ∀ w, FailsClean w (body w)

/-- The outcome is that of an instruction whose own effect meets `BodyRule`. -/
def RunsByRule (i : Instr) (s : State) (r : Host.Outcome State Fault Refusal) : Prop :=
  ∃ body, r = runInstr i s body ∧ BodyRule i body

variable {i : Instr} {s : State}

theorem readShape_runsByRule {o : Operand} {f : Byte → State → State} (hf : ∀ m w, Framed w (f m w)) :
    RunsByRule i s (readShape i o s f) :=
  ⟨_, rfl,
    { framed := fun w => (resolve_readsOnly o w).framed.bind fun r w1 =>
        (readLocation_readsOnly r.loc w1).framed.bind fun m w2 => hf m w2
      clean := fun _ w => FailsClean.bind (resolve_readsOnly o w) fun r w1 =>
        FailsClean.bind (readLocation_readsOnly r.loc w1) fun _ _ => failsClean_ok _ _ }⟩

theorem storeShape_runsByRule {o : Operand} {v : State → Byte} :
    RunsByRule i s (storeShape i o s v) :=
  ⟨_, rfl,
    { framed := fun w => (resolve_readsOnly o w).framed.bind fun r w1 =>
        (writeLocation_framed r.loc (v w1) w1).bind fun _ w2 => .refl w2
      clean := fun _ w => FailsClean.bind (resolve_readsOnly o w) fun r w1 =>
        (writeLocation_failsClean r.loc (v w1) w1).bind_ok }⟩

theorem modifyShape_runsByRule {o : Operand} {f : Byte → Status → Byte × Status} :
    RunsByRule i s (modifyShape i o s f) :=
  ⟨_, rfl,
    { framed := fun w => (resolve_readsOnly o w).framed.bind fun r w1 =>
        (readLocation_readsOnly r.loc w1).framed.bind fun v w2 =>
          (writeLocation_framed r.loc (f v w2.p).1 w2).bind fun _ _ => framed_registers ..
      clean := fun _ w => FailsClean.bind (resolve_readsOnly o w) fun r w1 =>
        FailsClean.bind (readLocation_readsOnly r.loc w1) fun v w2 =>
          (writeLocation_failsClean r.loc (f v w2.p).1 w2).bind_ok }⟩

theorem execJmp_runsByRule (o : Operand) : RunsByRule (.jmp o) s (execJmp o s) :=
  ⟨_, rfl,
    { framed := fun w => (resolve_readsOnly o w).framed.bind fun r w1 => by
        cases r.loc <;> exact framed_registers ..
      clean := fun _ w => FailsClean.bind (resolve_readsOnly o w) fun _ _ => failsClean_ok _ _ }⟩

theorem impliedShape_runsByRule {f : State → State} (hf : ∀ w, Framed w (f w)) :
    RunsByRule i s (impliedShape i s f) :=
  ⟨_, rfl, { framed := hf, clean := fun _ _ => failsClean_ok _ _ }⟩

theorem branchShape_runsByRule {d : Byte} {cond : Bool} :
    RunsByRule i s (branchShape i d s cond) :=
  ⟨_, rfl,
    { framed := fun w => by cases cond <;> exact framed_registers ..
      clean := fun _ _ => failsClean_ok _ _ }⟩

theorem stackShape_runsByRule {f : State → Access Unit} (hf : ∀ w, Framed w (f w).final)
    (hclean : i ≠ .brk → ∀ w, FailsClean w (f w)) : RunsByRule i s (stackShape i s f) :=
  ⟨_, rfl,
    { framed := fun w => (hf w).bind fun _ u => .refl u
      clean := fun hi w => (hclean hi w).bind_ok }⟩

/-- ADC and SBC are refused, or run (R231). -/
theorem refused_or_runsByRule {r : Host.Outcome State Fault Refusal} (h : RunsByRule i s r) :
    (s.refusesDecimal = true
      ∧ (if s.refusesDecimal then .refused .decimalMode else r) = .refused .decimalMode)
    ∨ RunsByRule i s (if s.refusesDecimal then .refused .decimalMode else r) := by
  cases hd : s.refusesDecimal with
  | true => exact .inl ⟨rfl, rfl⟩
  | false => exact .inr h

/-- The execution of a documented instruction: the refusal of rule R231, or the frame of an instruction
around an effect that meets `BodyRule`. -/
theorem exec_runsByRule (hi : i.operation ≠ none) (s : State) :
    (s.refusesDecimal = true ∧ exec i s = .refused .decimalMode) ∨ RunsByRule i s (exec i s) := by
  unfold exec
  cases i with
  | illegal op => exact absurd rfl hi
  | adc o | sbc o =>
    exact refused_or_runsByRule (readShape_runsByRule fun _ _ => framed_registers ..)
  | lda o | ldx o | ldy o | and o | ora o | eor o | cmp o | cpx o | cpy o | bit o =>
    exact .inr (readShape_runsByRule fun _ _ => framed_registers ..)
  | sta o | stx o | sty o => exact .inr storeShape_runsByRule
  | asl o | lsr o | rol o | ror o | inc o | dec o => exact .inr modifyShape_runsByRule
  | jmp o => exact .inr (execJmp_runsByRule o)
  | bpl d | bmi d | bvc d | bvs d | bcc d | bcs d | bne d | beq d =>
    exact .inr branchShape_runsByRule
  | jsr dest =>
    exact .inr (stackShape_runsByRule
      (fun w => (pushWord_framed _ w).bind fun _ u => framed_registers ..)
      fun _ w => (failsClean_of_eq_ok (pushWord_eq _ w)).bind_ok)
  | rts =>
    exact .inr (stackShape_runsByRule
      (fun w => (pullWord_framed w).bind fun _ u => framed_registers ..)
      fun _ w => (failsClean_of_eq_ok (pullWord_eq w)).bind_ok)
  | pha | php =>
    exact .inr (stackShape_runsByRule (fun w => push_framed _ w)
      fun _ w => failsClean_of_eq_ok (push_eq _ w))
  | pla | plp =>
    exact .inr (stackShape_runsByRule
      (fun w => (pull_framed w).bind fun _ u => framed_registers ..)
      fun _ w => (failsClean_of_eq_ok (pull_eq w)).bind_ok)
  | rti =>
    exact .inr (stackShape_runsByRule returnFromTrap_framed
      fun _ w => failsClean_of_eq_ok (returnFromTrap_eq w))
  | brk =>
    exact .inr (stackShape_runsByRule
      (fun w => Framed.trans (w := w.advance 1) (framed_registers ..) (enterTrap_framed ..))
      fun h => absurd rfl h)
  | _ => exact .inr (impliedShape_runsByRule fun w => framed_registers ..)

end Bodies

section Instructions

variable {i : Instr} {s t : State} {x : Fault}

theorem eq_illegal_of_operation (h : i.operation = none) : ∃ op, i = .illegal op := by
  cases i with
  | illegal op => exact ⟨op, rfl⟩
  | _ => cases h

theorem advance_framed (s : State) (n : Nat) : Framed s (s.advance n) := framed_registers ..

/-- An instruction that completes: a framed effect, and the end of the step. -/
theorem exec_next_framed (h : exec i s = .next t) :
    ∃ c f w, i.cost = some c ∧ Framed s w ∧ t = retire i s c f w := by
  by_cases hi : i.operation = none
  · obtain ⟨op, rfl⟩ := eq_illegal_of_operation hi
    cases h
  · rcases exec_runsByRule hi s with ⟨-, hx⟩ | ⟨body, hx, hbody⟩
    · cases hx.symm.trans h
    · obtain ⟨c, f, w, hc, hb, ht⟩ := runInstr_eq_next (hx.symm.trans h)
      have hw := hbody.framed (s.advance i.length)
      rw [hb] at hw
      exact ⟨c, f, w, hc, (advance_framed s _).trans hw, ht⟩

/-- An instruction that ends with an error: a framed bus, and no byte of the RAM changed but by BRK. -/
theorem exec_fault_framed (h : exec i s = .fault x) :
    Framed s x.left ∧ (i ≠ .brk → x.left.bus.ram = s.bus.ram) := by
  by_cases hi : i.operation = none
  · obtain ⟨op, rfl⟩ := eq_illegal_of_operation hi
    cases h
    exact ⟨.refl s, fun _ => rfl⟩
  · rcases exec_runsByRule hi s with ⟨-, hx⟩ | ⟨body, hx, hbody⟩
    · cases hx.symm.trans h
    · obtain ⟨e, w, hb, rfl⟩ := runInstr_eq_fault (hx.symm.trans h)
      have hw := hbody.framed (s.advance i.length)
      rw [hb] at hw
      exact ⟨⟨rfl, rfl, rfl, rfl, rfl, hw.devices, hw.ram_wf⟩,
        fun hne => hbody.clean hne (s.advance i.length) e w hb⟩

/-- A refused instruction has no row in the table, or is refused by rule R231. -/
theorem exec_refused {r : Refusal} (h : exec i s = .refused r) :
    i.operation ≠ none ∧ i.cost = none ∨ r = .decimalMode ∧ s.refusesDecimal = true := by
  rcases exec_cases i s with ⟨op, -, hx⟩ | ⟨-, hd, hx⟩ | ⟨hi, body, hx⟩
  · cases hx.symm.trans h
  · cases hx.symm.trans h
    exact .inr ⟨rfl, hd⟩
  · cases hc : i.cost with
    | none => exact .inl ⟨hi, rfl⟩
    | some c =>
      rw [hx, runInstr_eq hc] at h
      exact absurd h conclude_ne_refused

end Instructions

section Cost

/-- The costs of the table with the penalties added (R168, R169). -/
theorem entry_cost_bounds : ∀ (op : Byte) (crossed taken : Bool), ∀ c ∈ (entryAt op).bind Entry.cost,
    2 ≤ c.base ∧ c.base + penaltyCycles c.penalty ⟨crossed, taken⟩ ≤ 7 := by
  decide

theorem cost_bounds {i : Instr} {c : Cost} (h : i.cost = some c) (f : Flow) :
    2 ≤ c.base ∧ c.base + penaltyCycles c.penalty f ≤ 7 := by
  unfold Instr.cost at h
  split at h
  · next op _ =>
    split at h
    · next e he => exact entry_cost_bounds op f.crossed f.taken c (by rw [he]; exact h)
    · cases h
  · cases h

/-- The counter after an instruction that completes (R168). -/
theorem exec_cycles {i : Instr} {s t : State} (h : exec i s = .next t) :
    s.cycles + 2 ≤ t.cycles ∧ t.cycles ≤ s.cycles + 7 := by
  obtain ⟨c, f, w, hc, hw, rfl⟩ := exec_next_framed h
  obtain ⟨hlow, hhigh⟩ := cost_bounds hc f
  have hcycles : (retire i s c f w).cycles = s.cycles + c.base + penaltyCycles c.penalty f :=
    congrArg (· + c.base + penaltyCycles c.penalty f) hw.cycles
  omega

end Cost

end Sys2Proof.Machine
end

section
/-! SUPPORT. The invariant over every step and every operation of the driver, what an error and a refusal
of a step leave, the cycles of a step (`41_fetch_dispatch.md`, R160 to R174), and the obligations about
them. -/

namespace Sys2Proof.Machine

section Fetch

variable {s w : State} {i : Instr}

/-- The instruction fetched is that of an opcode and two bytes (R162, R165). -/
theorem fetch_ok_eq_instrOf (h : fetch s = .ok i w) : ∃ op lo hi, i = instrOf op lo hi := by
  obtain ⟨op, s1, -, h⟩ := Access.bind_eq_ok h
  split at h
  · cases h
    exact ⟨op, 0, 0, rfl⟩
  · obtain ⟨lo, s2, -, h⟩ := Access.bind_eq_ok h
    cases h
    exact ⟨op, lo, 0, rfl⟩
  · obtain ⟨lo, s2, -, h⟩ := Access.bind_eq_ok h
    obtain ⟨hi, s3, -, h⟩ := Access.bind_eq_ok h
    cases h
    exact ⟨op, lo, hi, rfl⟩

/-- The fetch gives no term without a row in the table (log 13). -/
theorem fetch_ok_wf (h : fetch s = .ok i w) : i.wf = true := by
  obtain ⟨op, lo, hi, rfl⟩ := fetch_ok_eq_instrOf h
  exact (instrOf_wf op lo hi).1

theorem fetch_ok_readsOnly (h : fetch s = .ok i w) : ReadsOnly s w := (fetch_readsOnly s).of_ok h

end Fetch

section Completion

variable {s t w : State}

theorem Framed.wf (h : Framed s w) (hs : s.wf) : w.wf := by
  obtain ⟨hram, hvideo, hio, hcart, hlatches⟩ := hs
  obtain ⟨hv, hi, hc⟩ := h.devices
  refine ⟨h.ram_wf hram, hv ▸ hvideo, hi ▸ hio, hc ▸ hcart, fun habsent => ?_⟩
  rw [h.nmiPending, h.irqLine]
  exact hlatches (h.cfg ▸ habsent)

/-- An interrupt entry that completes: a framed effect, and the end of the entry. -/
theorem enterInterrupt_next_framed {k : Interrupt} (h : enterInterrupt k s = .next t) :
    ∃ w, Framed s w ∧ t = finishEntry k w := by
  obtain ⟨_, w, hw, rfl⟩ := conclude_eq_next h
  have hframed := enterTrap_framed k.vector false s
  rw [hw] at hframed
  exact ⟨w, hframed, rfl⟩

theorem finishEntry_wf (k : Interrupt) (hw : w.wf) : (finishEntry k w).wf := by
  obtain ⟨hram, hvideo, hio, hcart, hlatches⟩ := hw
  cases k with
  | nmi => exact ⟨hram, hvideo, hio, hcart, fun ha => ⟨rfl, (hlatches ha).2⟩⟩
  | irq => exact ⟨hram, hvideo, hio, hcart, hlatches⟩

theorem finishReset_wf (v : Word) (hw : w.wf) : (finishReset v w).wf := by
  obtain ⟨hram, hvideo, hio, hcart, hlatches⟩ := hw
  exact ⟨hram, hvideo, hio, hcart, fun ha => ⟨rfl, (hlatches ha).2⟩⟩

theorem enterInterrupt_next_wf {k : Interrupt} (hs : s.wf) (h : enterInterrupt k s = .next t) :
    t.wf := by
  obtain ⟨w, hw, rfl⟩ := enterInterrupt_next_framed h
  exact finishEntry_wf k (hw.wf hs)

theorem exec_next_wf {i : Instr} (hs : s.wf) (h : exec i s = .next t) : t.wf := by
  obtain ⟨c, f, w, -, hw, rfl⟩ := exec_next_framed h
  exact hw.wf hs

/-- Settles O45: a reset and a fetch only read, and trap entries and instructions are framed. -/
theorem stepKeepsInvariant : Obligations.StepKeepsInvariant := by
  intro s t hs h
  rcases step_eq_next h with ⟨-, h⟩ | ⟨-, -, h⟩ | ⟨-, -, -, h⟩ | ⟨-, i, w, hf, h⟩
  · obtain ⟨v, w, hr, rfl⟩ := conclude_eq_next h
    exact finishReset_wf v ((read16_ok_readsOnly hr).framed.wf hs)
  · exact enterInterrupt_next_wf hs h
  · exact enterInterrupt_next_wf hs h
  · exact exec_next_wf ((fetch_ok_readsOnly hf).framed.wf hs) h

/-- Settles O46: the check of the invariant is run on the one state. -/
theorem resetMeetsInvariant : Obligations.ResetMeetsInvariant := by
  unfold Obligations.ResetMeetsInvariant
  decide

/-- Settles O49: each kind of step that completes ends by accounting its cycles. -/
theorem cyclesCharged : Obligations.CyclesCharged := by
  intro s t h
  have hentry : ∀ k, enterInterrupt k s = .next t → t.cycles = s.cycles + 7 := by
    intro k h
    obtain ⟨w, hw, rfl⟩ := enterInterrupt_next_framed h
    cases k <;> exact congrArg (· + 7) hw.cycles
  rcases step_eq_next h with ⟨hr, h⟩ | ⟨hr, hn, h⟩ | ⟨hr, hn, hi, h⟩ | ⟨hq, i, w, hf, h⟩
  · obtain ⟨v, w, -, rfl⟩ := conclude_eq_next h
    exact ⟨fun _ => rfl, fun hr' => absurd (hr'.symm.trans hr) (by decide),
      fun ⟨hr', _⟩ => absurd (hr'.symm.trans hr) (by decide)⟩
  · exact ⟨fun hr' => absurd (hr.symm.trans hr') (by decide), fun _ _ => hentry _ h,
      fun ⟨_, hn', _⟩ => absurd (hn'.symm.trans hn) (by decide)⟩
  · exact ⟨fun hr' => absurd (hr.symm.trans hr') (by decide), fun _ _ => hentry _ h,
      fun ⟨_, _, hi'⟩ => absurd (hi'.symm.trans hi) (by decide)⟩
  · obtain ⟨hr, hn, hi⟩ := hq
    have hcycles := exec_cycles h
    rw [(fetch_ok_readsOnly hf).framed.cycles] at hcycles
    refine ⟨fun hr' => absurd (hr.symm.trans hr') (by decide), fun _ hrecognised => ?_,
      fun _ => hcycles⟩
    rw [hn, hi] at hrecognised
    exact absurd hrecognised (by decide)

end Completion

section Errors

variable {s : State} {x : Fault}

/-- What an error leaves on the bus: the RAM as it was, or with the three pushes of a trap entry. -/
structure FaultBus (s : State) (x : Fault) : Prop where
  left_eq : x.left = s.setBus x.left.bus
  devices : s.bus.SameDevices x.left.bus
  ram_eq : x.left.bus.ram = s.bus.ram
    ∨ ∃ pc v, x.left.bus.ram = trapRam s.bus.ram s.sp pc v

theorem ReadsOnly.faultBus {w : State} (h : ReadsOnly s w) (a : Word) (k : AccessKind) :
    FaultBus s (.addressError a k (s.setBus w.bus)) :=
  ⟨rfl, h.2.2, .inl h.2.1⟩

theorem takeReset_fault_ram (h : takeReset s = .fault x) :
    FaultBus s x ∧ x.left.bus.ram = s.bus.ram := by
  obtain ⟨e, w, hr, rfl⟩ := conclude_eq_fault h
  have hreads := (read16_readsOnly _ s).of_err hr
  exact ⟨hreads.faultBus _ _, hreads.2.1⟩

/-- A trap entry fails after its pushes (R320). -/
theorem enterTrap_err {vec : Word} {brk : Bool} {e : BusError} {w : State}
    (h : enterTrap vec brk s = .err e w) :
    s.bus.SameDevices w.bus ∧ w.bus.ram = trapRam s.bus.ram s.sp s.pc (s.p.pushed brk) := by
  rw [enterTrap_eq] at h
  rcases Access.bind_eq_err h with h | ⟨v, u, -, h⟩
  · obtain ⟨-, hram, hdevices⟩ := (read16_readsOnly vec _).of_err h
    exact ⟨hdevices, hram⟩
  · cases h

theorem enterInterrupt_faultBus {k : Interrupt} (h : enterInterrupt k s = .fault x) :
    FaultBus s x := by
  obtain ⟨e, w, ht, rfl⟩ := conclude_eq_fault h
  obtain ⟨hdevices, hram⟩ := enterTrap_err ht
  exact ⟨rfl, hdevices, .inr ⟨_, _, hram⟩⟩

theorem exec_brk_faultBus (h : exec .brk s = .fault x) : FaultBus s x := by
  have hexec : exec .brk s = execBrk s := rfl
  rw [hexec, execBrk, stackShape] at h
  obtain ⟨e, w, hb, rfl⟩ := runInstr_eq_fault h
  rcases Access.bind_eq_err hb with hb | ⟨_, u, -, hb⟩
  · obtain ⟨hdevices, hram⟩ := enterTrap_err hb
    exact ⟨rfl, hdevices, .inr ⟨_, _, hram⟩⟩
  · cases hb

theorem exec_faultBus {i : Instr} (h : exec i s = .fault x) : FaultBus s x := by
  by_cases hi : i = .brk
  · subst hi
    exact exec_brk_faultBus h
  · obtain ⟨hframed, hram⟩ := exec_fault_framed h
    exact ⟨exec_fault_left h, hframed.devices, .inl (hram hi)⟩

/-- An error of the fetch or of the instruction fetched. -/
theorem stepInstr_faultBus (h : stepInstr s = .fault x) :
    FaultBus s x ∧ ((∀ w, fetch s ≠ .ok .brk w) → x.left.bus.ram = s.bus.ram) := by
  have hleft := stepInstr_fault_left h
  unfold stepInstr at h
  split at h
  next i w hf =>
    obtain ⟨hw, hram, hdevices⟩ := fetch_ok_readsOnly hf
    have hx := exec_faultBus h
    have hsp : w.sp = s.sp := by
      rw [hw]
      rfl
    refine ⟨⟨hleft, hdevices.trans hx.devices, ?_⟩, fun hbrk => ?_⟩
    · rw [← hram, ← hsp]
      exact hx.ram_eq
    · have hne : i ≠ .brk := by
        rintro rfl
        exact hbrk w hf
      exact ((exec_fault_framed h).2 hne).trans hram
  next e w hf =>
    cases h
    have hreads := (fetch_readsOnly s).of_err hf
    exact ⟨hreads.faultBus _ _, fun _ => hreads.2.1⟩

theorem step_faultBus (h : step s = .fault x) : FaultBus s x := by
  unfold step at h
  split at h
  · exact (takeReset_fault_ram h).1
  · split at h
    · exact enterInterrupt_faultBus h
    · split at h
      · exact enterInterrupt_faultBus h
      · exact (stepInstr_faultBus h).1

/-- A trap entry changes the three bytes it pushes to alone (R291, R320). -/
theorem trapRam_read_ne (m : Memory) (sp : Byte) (pc : Word) (v : Byte) {k : Nat}
    (h0 : k ≠ 0x100 + sp.toNat) (h1 : k ≠ 0x100 + (sp - 1).toNat)
    (h2 : k ≠ 0x100 + (sp - 1 - 1).toNat) : (trapRam m sp pc v).read k = m.read k := by
  rw [trapRam, Memory.read_write_ne _ h2, Memory.read_write_ne _ h1, Memory.read_write_ne _ h0]

/-- The stack page holds the bytes that SP can designate (R39). -/
theorem ne_stackIndex {k : Nat} (hk : k < 0x100 ∨ 0x1FF < k) (sp : Byte) : k ≠ 0x100 + sp.toNat := by
  have := sp.isLt
  omega

/-- Settles O43: whatever a step does before it fails, its error leaves all but the bus, and there no
byte but the pushes of a trap entry has changed. -/
theorem errorsRollBackTheStep : Obligations.ErrorsRollBackTheStep := by
  intro s x h
  obtain ⟨hleft, ⟨hvideo, hio, hcart⟩, hram⟩ := step_faultBus h
  refine ⟨hleft, hvideo, hio, hcart, ?_, fun k hk => ?_⟩
  · rintro (hreset | ⟨hquiet, hbrk⟩)
    · rw [step_reset hreset] at h
      exact (takeReset_fault_ram h).2
    · rw [step_quiet hquiet] at h
      exact (stepInstr_faultBus h).2 hbrk
  · rcases hram with hram | ⟨pc, v, hram⟩
    · rw [hram]
    · rw [hram]
      exact trapRam_read_ne _ _ _ _ (ne_stackIndex hk _) (ne_stackIndex hk _) (ne_stackIndex hk _)

/-- An error of a step keeps the invariant (R173). -/
theorem FaultBus.left_wf (h : FaultBus s x) (hs : s.wf) : x.left.wf := by
  obtain ⟨hleft, hdevices, hram⟩ := h
  have hframed : Framed s x.left := by
    rw [hleft]
    refine ⟨rfl, rfl, rfl, rfl, rfl, hdevices, fun hwf => ?_⟩
    rcases hram with hram | ⟨pc, v, hram⟩
    · exact (congrArg Memory.wf hram).mpr hwf
    · exact (congrArg Memory.wf hram).mpr (trapRam_wf hwf s.sp pc v)
  exact hframed.wf hs

/-- Settles O44: the fetch gives an instruction of the table, and such an instruction is refused by rule
R231 alone. -/
theorem stepRefusesOnlyDecimal : Obligations.StepRefusesOnlyDecimal := by
  intro s r h
  have hstep : stepInstr s = .refused r := by
    unfold step at h
    split at h
    · exact absurd h conclude_ne_refused
    · split at h
      · exact absurd h conclude_ne_refused
      · split at h
        · exact absurd h conclude_ne_refused
        · exact h
  unfold stepInstr at hstep
  split at hstep
  next i w hf =>
    rcases exec_refused hstep with ⟨hi, hcost⟩ | ⟨rfl, hd⟩
    · obtain ⟨c, hc⟩ := wf_cost (fetch_ok_wf hf) hi
      cases hc.symm.trans hcost
    · rw [fetch_ok_eq_setBus hf] at hd
      obtain ⟨hd, hmode⟩ := Bool.and_eq_true_iff.mp hd
      exact ⟨rfl, beq_iff_eq.mp hmode, hd⟩
  next => cases hstep

/-- Settles O20: the test of rule R231 stands before the instruction's own reads. -/
theorem decimalModeRefuses : Obligations.DecimalModeRefuses := by
  intro o s hmode hd
  have hrefuses : s.refusesDecimal = true := by
    rw [State.refusesDecimal, hmode, hd]
    rfl
  exact ⟨if_pos hrefuses, if_pos hrefuses⟩

end Errors

section Driver

variable {s t : State}

theorem nmiEdge_of_present (h : s.cfg.interruptInputs = .present) :
    nmiEdge s = s.setNmiPending true := by
  rw [nmiEdge, h]

theorem nmiEdge_of_absent (h : s.cfg.interruptInputs = .absent) : nmiEdge s = s := by
  rw [nmiEdge, h]

theorem setIrq_of_present (h : s.cfg.interruptInputs = .present) (level : Bool) :
    setIrq level s = s.setIrqLine level := by
  rw [setIrq, h]

theorem setIrq_of_absent (h : s.cfg.interruptInputs = .absent) (level : Bool) :
    setIrq level s = s := by
  rw [setIrq, h]

/-- With interrupt inputs the invariant says nothing of their latches. -/
theorem wf_of_present (h : s.cfg.interruptInputs = .present) (hs : s.wf) (nmi irq : Bool) :
    ((s.setNmiPending nmi).setIrqLine irq).wf := by
  obtain ⟨hram, hvideo, hio, hcart, -⟩ := hs
  exact ⟨hram, hvideo, hio, hcart, fun habsent => absurd (h.symm.trans habsent) (by decide)⟩

theorem nmiEdge_wf (hs : s.wf) : (nmiEdge s).wf := by
  cases h : s.cfg.interruptInputs with
  | present =>
    rw [nmiEdge_of_present h]
    exact wf_of_present h hs true s.irqLine
  | absent => rwa [nmiEdge_of_absent h]

theorem setIrq_wf (level : Bool) (hs : s.wf) : (setIrq level s).wf := by
  cases h : s.cfg.interruptInputs with
  | present =>
    rw [setIrq_of_present h]
    exact wf_of_present h hs s.nmiPending level
  | absent => rwa [setIrq_of_absent h]

theorem drive_next_wf {op : DriverOp} (hs : s.wf) (h : drive op s = .next t) : t.wf := by
  cases op with
  | step => exact stepKeepsInvariant s t hs h
  | tick =>
    cases h
    exact hs
  | requestReset =>
    cases h
    exact hs
  | nmiEdge =>
    cases h
    exact nmiEdge_wf hs
  | setIrq level =>
    cases h
    exact setIrq_wf level hs

/-- Power-on with arguments in canonical form (R64, R350). -/
theorem powerOn_wf {p : PowerOn} (hp : p.wf) (h : powerOn p = .ok s) : s.wf := by
  obtain ⟨hram, hvideo, hio, hcart⟩ := hp
  have hinitial : p.initial.wf := ⟨hram, hvideo, hio, hcart, fun _ => ⟨rfl, rfl⟩⟩
  unfold powerOn at h
  split at h
  next v w hr =>
    cases h
    exact (read16_ok_readsOnly hr).framed.wf hinitial
  next => cases h

theorem reachable_wf (h : Reachable s) : s.wf := by
  induction h with
  | powerOn p s hp h => exact powerOn_wf hp h
  | drive s s' op _ h ih => exact drive_next_wf ih h
  | error s x _ h ih => exact (step_faultBus h).left_wf ih

/-- Settles O47: power-on establishes the invariant, every operation and every error keeps it, and a
reachable state is reached by these. -/
theorem reachableStatesMeetInvariant : Obligations.ReachableStatesMeetInvariant :=
  ⟨fun _ _ _ => drive_next_wf, fun _ _ hs h => (step_faultBus h).left_wf hs, fun _ _ => powerOn_wf,
    fun _ => reachable_wf⟩

/-- Settles O60: each operation writes its one field, and the saved state holds all that the
collaborators and the parameters do not. -/
theorem driverOperations : Obligations.DriverOperations := by
  intro s level
  refine ⟨?_, rfl, fun h => ⟨nmiEdge_of_present h, setIrq_of_present h level⟩,
    fun h => ⟨nmiEdge_of_absent h, setIrq_of_absent h level⟩,
    ⟨rfl, rfl, rfl, rfl, rfl, rfl, s.p.toNat_byte⟩, fun t hcfg hbus => ?_⟩
  · have hcycles : s.cycles - 1 = if 0 < s.cycles then s.cycles - 1 else 0 := by
      split <;> omega
    exact congrArg s.setCycles hcycles
  · rw [restore, hbus, hcfg]
    rfl

end Driver

end Sys2Proof.Machine
end

section
/-! SUPPORT. The stack read back (`10_state.md`, R39 to R42), the fetch as a read of bytes
(`41_fetch_dispatch.md`, R161), and the obligations about calls, traps, the fetch and the late poll. -/

namespace Sys2Proof.Machine

section Stack

variable {m : Memory}

theorem sub_one_sub_ofNat (sp : Byte) (j : Nat) :
    sp - 1 - BitVec.ofNat 8 j = sp - BitVec.ofNat 8 (j + 1) := by
  rw [BitVec.ofNat_add]
  bv_omega

/-- Pushes change the bytes they push to alone (R40). -/
theorem pushedRam_read_ne (m : Memory) (sp : Byte) (bytes : List Byte) {k : Nat}
    (h : ∀ j < bytes.length, k ≠ 0x100 + (sp - BitVec.ofNat 8 j).toNat) :
    (pushedRam m sp bytes).read k = m.read k := by
  induction bytes generalizing m sp with
  | nil => rfl
  | cons b t ih =>
    have hb : k ≠ 0x100 + sp.toNat := by
      have h0 := h 0 (Nat.zero_lt_succ _)
      rwa [BitVec.sub_zero] at h0
    rw [pushedRam, ih, Memory.read_write_ne _ hb]
    intro j hj
    rw [sub_one_sub_ofNat]
    exact h (j + 1) (Nat.succ_lt_succ hj)

/-- The bytes pushed, read back: the first at SP, each next one below (R40, R42). -/
theorem stackByte_pushedRam (hm : Memory.wf m) (sp : Byte) {bytes : List Byte}
    (hlength : bytes.length ≤ 256) (k : Nat) (hk : k < bytes.length) :
    stackByte (pushedRam m sp bytes) (sp - BitVec.ofNat 8 k) = bytes[k] := by
  induction bytes generalizing m sp k with
  | nil => cases hk
  | cons b t ih =>
    rw [List.length_cons] at hlength hk
    cases k with
    | zero =>
      rw [BitVec.sub_zero, stackByte, pushedRam, pushedRam_read_ne, Memory.read_write_self hm]
      · rfl
      · intro j hj
        have hne : sp.toNat ≠ (sp - 1 - BitVec.ofNat 8 j).toNat := by
          rw [sub_one_sub_ofNat, BitVec.toNat_sub, BitVec.toNat_ofNat]
          have := sp.isLt
          omega
        omega
    | succ k =>
      rw [pushedRam, ← sub_one_sub_ofNat]
      exact ih (Memory.write_wf hm (stackIndex_lt sp) b) (sp - 1) (by omega) k (by omega)

/-- Settles O32: RTS pulls the two bytes that JSR pushed, and adds the 1 that JSR took off. -/
theorem subroutineCallReturns : Obligations.SubroutineCallReturns := by
  intro dest s ⟨hram, _⟩
  obtain ⟨-, hjsr⟩ := jsrPushesItsLastByteAddress
  obtain ⟨-, hrts⟩ := rtsReturnsPastTheCall
  refine ⟨_, _, (hjsr dest s).2, hrts _, ?_, ?_, rfl, rfl, rfl, rfl⟩
  · have hstack := stackByte_pushedRam hram s.sp (bytes := [hi8 (s.pc + 2), lo8 (s.pc + 2)]) (by simp)
    have hsp2 : s.sp - 2 + 2 = s.sp - BitVec.ofNat 8 0 := by bv_omega
    have hsp1 : s.sp - 2 + 1 = s.sp - BitVec.ofNat 8 1 := by bv_omega
    dsimp only
    rw [hsp2, hsp1, hstack 0 (by simp), hstack 1 (by simp)]
    simp only [List.getElem_cons_zero, List.getElem_cons_succ, word_hi8_lo8]
    bv_omega
  · dsimp only
    bv_omega

/-- What RTI brings back when the stack holds the three bytes of a trap entry (R292, R323). -/
theorem exec_rti_of_trapRam {t : State} {sp : Byte} {pc : Word} {p : Status} {brk : Bool}
    (hm : Memory.wf m) (hsp : t.sp = sp - 1 - 1 - 1)
    (hram : t.bus.ram = trapRam m sp pc (p.pushed brk)) :
    ∃ u, exec .rti t = .next u ∧ u.pc = pc ∧ u.p = p ∧ u.sp = sp ∧ u.a = t.a ∧ u.x = t.x
      ∧ u.y = t.y := by
  obtain ⟨-, hrti⟩ := rtiRestoresStatusAndPc
  have hpushed : t.bus.ram = pushedRam m sp [hi8 pc, lo8 pc, p.pushed brk] := hram
  have hstack := stackByte_pushedRam hm sp (bytes := [hi8 pc, lo8 pc, p.pushed brk]) (by simp)
  have hsp3 : t.sp + 3 = sp - BitVec.ofNat 8 0 := by
    rw [hsp]
    bv_omega
  have hsp2 : t.sp + 2 = sp - BitVec.ofNat 8 1 := by
    rw [hsp]
    bv_omega
  have hsp1 : t.sp + 1 = sp - BitVec.ofNat 8 2 := by
    rw [hsp]
    bv_omega
  refine ⟨_, hrti t, ?_, ?_, ?_, rfl, rfl, rfl⟩
  · dsimp only
    rw [hsp3, hsp2, hpushed, hstack 0 (by simp), hstack 1 (by simp)]
    exact word_hi8_lo8 pc
  · dsimp only
    rw [hsp1, hpushed, hstack 2 (by simp)]
    exact p.load_pushed brk
  · exact hsp3.trans (BitVec.sub_zero sp)

/-- Settles O41: BRK and an interrupt entry leave the three bytes that RTI pulls, and no access between
changes them. -/
theorem trapReturns : Obligations.TrapReturns := by
  intro s t ⟨hram, _⟩
  refine ⟨fun h => ?_, fun k h => ?_⟩
  · have hexec : exec .brk s = execBrk s := rfl
    rw [hexec, execBrk] at h
    obtain ⟨c, w, -, hw, rfl⟩ := stackShape_next h
    obtain ⟨pc, b, hb, -, rfl⟩ := enterTrap_ok hw
    have hpc : ((s.advance Instr.brk.length).advance 1).pc = s.pc + 2 := by
      change s.pc + 1 + 1 = s.pc + 2
      bv_omega
    rw [hpc] at hb
    exact exec_rti_of_trapRam hram rfl hb
  · obtain ⟨_, w, hw, rfl⟩ := conclude_eq_next h
    obtain ⟨pc, b, hb, -, rfl⟩ := enterTrap_ok hw
    cases k <;> exact exec_rti_of_trapRam hram rfl hb

end Stack

section Fetch

variable {s w : State} {i : Instr} {bytes : List Byte}

/-- The fetch reads the opcode and then as many bytes as the opcode counts (R161, R87). -/
theorem fetch_eq_readBytes (s : State) :
    fetch s = (memRead s.pc s).bind fun op s1 =>
      (readBytes (operandCountOf op) (s.pc + 1) s1).bind fun bytes s2 =>
        .ok (instrOf op (bytes.getD 0 0) (bytes.getD 1 0)) s2 := by
  unfold fetch
  congr 1
  funext op s1
  have hle := operandCountOf_le op
  split
  · next h =>
    rw [h]
    rfl
  · next h =>
    rw [h]
    simp only [readBytes]
    cases memRead (s.pc + 1) s1 <;> rfl
  · next n h =>
    obtain rfl : n = 0 := by omega
    have hpc : s.pc + 2 = s.pc + 1 + 1 := by bv_omega
    rw [h, hpc]
    simp only [readBytes]
    cases memRead (s.pc + 1) s1 with
    | err e w => rfl
    | ok lo s2 =>
      simp only [Access.bind_ok]
      cases memRead (s.pc + 1 + 1) s2 <;> rfl

/-- The bytes of a well-formed instruction are its opcode and the operand bytes the opcode counts. -/
theorem length_of_opcode {op : Byte} (hwf : i.wf = true) (h : i.opcode = some op) :
    i.length = operandCountOf op + 1 := by
  obtain ⟨op', hop', -, hinstr⟩ := opcode_of_wf hwf
  cases h.symm.trans hop'
  obtain ⟨-, -, -, hlength⟩ := instrOf_wf op (i.operandBytes.getD 0 0) (i.operandBytes.getD 1 0)
  rw [hinstr] at hlength
  omega

/-- The fetch gives the instruction that the bytes at PC decode to (R161 to R165). -/
theorem fetch_of_readBytes (hr : readBytes i.length s.pc s = .ok bytes w)
    (hd : decode bytes = .ok (i, [])) : fetch s = .ok i w := by
  obtain ⟨hwf, hbytes⟩ := decodingLosesNoBit.1 bytes i [] hd
  obtain ⟨op, hop, -, hinstr⟩ := opcode_of_wf hwf
  rw [List.append_nil, encode_of_opcode hop] at hbytes
  rw [length_of_opcode hwf hop, hbytes, readBytes] at hr
  obtain ⟨b, s1, hb, hr⟩ := Access.bind_eq_ok hr
  obtain ⟨t, s2, ht, hr⟩ := Access.bind_eq_ok hr
  obtain ⟨hcons, rfl⟩ := Access.ok.inj hr
  obtain ⟨rfl, rfl⟩ := List.cons.inj hcons
  rw [fetch_eq_readBytes, hb, Access.bind_ok, ht, Access.bind_ok, hinstr]

/-- Bytes in the RAM window are read without a change of the state (R74). -/
theorem readBytes_ram {addr : Word} (haddr : addr.toNat + bytes.length ≤ 0x2000)
    (h : ∀ k < bytes.length, bytes[k]? = some (s.bus.ram.read ((addr.toNat + k) % 0x800))) :
    readBytes bytes.length addr s = .ok bytes s := by
  induction bytes generalizing addr with
  | nil => rfl
  | cons b t ih =>
    rw [List.length_cons] at haddr h
    have hb : s.bus.ram.read (addr.toNat % 0x800) = b := (Option.some.inj (h 0 (by omega))).symm
    have hnext : (addr + 1).toNat = addr.toNat + 1 := by bv_omega
    have ht := ih (addr := addr + 1) (by omega) fun k hk => by
      have hk' := h (k + 1) (by omega)
      rw [List.getElem?_cons_succ] at hk'
      rw [hk', hnext, Nat.add_right_comm, Nat.add_assoc]
    rw [List.length_cons, readBytes, memRead_ram_mod (by omega), Access.bind_ok, ht, Access.bind_ok, hb]

theorem quiet_of_absent (hc : s.cfg.interruptInputs = .absent) (hr : s.resetPending = false) :
    s.quiet := by
  refine ⟨hr, ?_, ?_⟩
  · rw [State.nmiRecognised, hc]
    exact Bool.and_false _
  · rw [State.irqRecognised, hc]
    exact Bool.and_false _

/-- Settles O38: the fetch is a read of bytes, and the bytes decoded are the instruction's. -/
theorem stepRunsDecodedInstruction : Obligations.StepRunsDecodedInstruction := by
  intro s i
  refine ⟨quiet_of_absent, fun hq bytes w hr hd => ?_, fun hq hwf hpc hram => ?_⟩
  · have hf := fetch_of_readBytes hr hd
    obtain ⟨hw, hbusRam, -⟩ := fetch_ok_readsOnly hf
    exact ⟨step_of_fetch_ok hq hf, hw, hbusRam⟩
  · obtain ⟨op, hop, hcount, -⟩ := opcode_of_wf hwf
    have hlength : (encode i).length = i.length := by
      rw [encode_of_opcode hop, List.length_cons, hcount, length_of_opcode hwf hop]
    rw [← hlength] at hpc hram
    have hr := readBytes_ram hpc hram
    rw [hlength] at hr
    have hd := decodeEncodeRoundTrip i [] hwf
    rw [List.append_nil] at hd
    exact step_of_fetch_ok hq (fetch_of_readBytes hr hd)

end Fetch

section Poll

/-- Settles O51: CLI and SEI write I at once, and `i_poll` after them is the I from before. -/
theorem maskChangesReachThePollLate : Obligations.MaskChangesReachThePollLate := by
  intro s t w hq hstep
  obtain ⟨hpoll, -⟩ := pollFollowsTheMask
  have hlate := (hpoll s t hstep).1 hq
  obtain ⟨-, -, ⟨-, hcli⟩, ⟨-, hsei⟩, -⟩ := flagInstructionsWriteOneFlag
  refine ⟨fun hf hi => ?_, fun hf hi hinputs hline => ?_⟩
  · have hpollI : t.iPoll = s.p.i := hlate .cli w hf
    rw [step_of_fetch_ok hq hf, hcli w] at hstep
    obtain rfl := Host.Outcome.next.inj hstep
    refine ⟨rfl, ?_⟩
    rw [State.irqRecognised, hpollI, hi]
    simp
  · have hpollI : t.iPoll = s.p.i := hlate .sei w hf
    have hframed := (fetch_ok_readsOnly hf).framed
    rw [step_of_fetch_ok hq hf, hsei w] at hstep
    obtain rfl := Host.Outcome.next.inj hstep
    refine ⟨rfl, ?_⟩
    rw [irqRecognised_of_present, hpollI, hi]
    · exact congrArg (· && true) (hframed.irqLine.trans hline)
    · exact (congrArg Config.interruptInputs hframed.cfg).trans hinputs

end Poll

end Sys2Proof.Machine
end

section
/-! SUPPORT. What an instruction does not look at: a change of the cycle counter, and of D where
`DECIMAL_MODE` ignores it, goes through every access, shape and instruction unseen (`10_state.md` R47,
`43_alu.md` R231, `70_reset_and_hazards.md` R362), and the obligations about them. -/

namespace Sys2Proof.Machine

section Bystanders

/-- The map `g` changes what no access, no operand and no end of an instruction looks at. -/
structure Bystander (g : State → State) : Prop extends KeepsBus g where
  a_eq : ∀ s, (g s).a = s.a
  x_eq : ∀ s, (g s).x = s.x
  y_eq : ∀ s, (g s).y = s.y
  sp_eq : ∀ s, (g s).sp = s.sp
  pc_eq : ∀ s, (g s).pc = s.pc
  setA_eq : ∀ s v, (g s).setA v = g (s.setA v)
  setSp_eq : ∀ s v, (g s).setSp v = g (s.setSp v)
  setPc_eq : ∀ s v, (g s).setPc v = g (s.setPc v)
  retire_eq : ∀ i s c f w, retire i (g s) c f (g w) = g (retire i s c f w)

variable {g : State → State} {α β : Type}

/-- A sequence sees nothing of `g` when no piece of it does. -/
theorem Access.bind_mapState {r r' : Access α} {f f' : α → State → Access β}
    (hr : r' = r.mapState g) (hf : ∀ v w, f' v (g w) = (f v w).mapState g) :
    r'.bind f' = (r.bind f).mapState g := by
  subst hr
  cases r with
  | ok v w => exact hf v w
  | err e w => rfl

theorem memWrite_mapState (hg : KeepsBus g) (a : Word) (v : Byte) (s : State) :
    memWrite a v (g s) = (memWrite a v s).mapState g := by
  simp only [memWrite, hg.bus_eq, hg.setBus_eq]
  rcases busWrite a v s.bus with ⟨_ | _, b⟩ <;> rfl

theorem readBytes_mapState (hg : KeepsBus g) (n : Nat) (a : Word) (s : State) :
    readBytes n a (g s) = (readBytes n a s).mapState g := by
  induction n generalizing a s with
  | zero => rfl
  | succ n ih =>
    exact Access.bind_mapState (memRead_mapState hg a s) fun b w =>
      Access.bind_mapState (ih (a + 1) w) fun _ _ => rfl

theorem fetch_mapState (hg : Bystander g) (s : State) : fetch (g s) = (fetch s).mapState g := by
  rw [fetch_eq_readBytes, fetch_eq_readBytes, hg.pc_eq]
  exact Access.bind_mapState (memRead_mapState hg.toKeepsBus s.pc s) fun op w =>
    Access.bind_mapState (readBytes_mapState hg.toKeepsBus _ _ w) fun _ _ => rfl

theorem resolve_mapState (hg : Bystander g) (o : Operand) (s : State) :
    resolve o (g s) = (resolve o s).mapState g := by
  cases o with
  | zeroPageX zp | absoluteX addr =>
    rw [resolve, hg.x_eq]
    rfl
  | zeroPageY zp | absoluteY addr =>
    rw [resolve, hg.y_eq]
    rfl
  | indirect ptr =>
    exact Access.bind_mapState (memRead_mapState hg.toKeepsBus ptr s) fun lo w =>
      Access.bind_mapState (memRead_mapState hg.toKeepsBus _ w) fun _ _ => rfl
  | indirectX zp =>
    simp only [resolve, zpRead16_eq, hg.bus_eq, hg.x_eq]
    rfl
  | indirectY zp =>
    simp only [resolve, zpRead16_eq, Access.bind_ok, hg.bus_eq, hg.y_eq]
    rfl
  | _ => rfl

theorem readLocation_mapState (hg : Bystander g) (l : Location) (s : State) :
    readLocation l (g s) = (readLocation l s).mapState g := by
  cases l with
  | accumulator => exact congrArg (Access.ok · (g s)) (hg.a_eq s)
  | literal b => rfl
  | memory ea => exact memRead_mapState hg.toKeepsBus ea s

theorem writeLocation_mapState (hg : Bystander g) (l : Location) (v : Byte) (s : State) :
    writeLocation l v (g s) = (writeLocation l v s).mapState g := by
  cases l with
  | accumulator => exact congrArg (Access.ok ()) (hg.setA_eq s v)
  | literal b => rfl
  | memory ea => exact memWrite_mapState hg.toKeepsBus ea v s

theorem push_mapState (hg : Bystander g) (v : Byte) (s : State) :
    push v (g s) = (push v s).mapState g := by
  rw [push_eq, push_eq, hg.bus_eq, hg.sp_eq, hg.setBus_eq, hg.setSp_eq]
  rfl

theorem pull_mapState (hg : Bystander g) (s : State) : pull (g s) = (pull s).mapState g := by
  rw [pull_eq, pull_eq, hg.bus_eq, hg.sp_eq, hg.setSp_eq]
  rfl

theorem pushWord_mapState (hg : Bystander g) (v : Word) (s : State) :
    pushWord v (g s) = (pushWord v s).mapState g :=
  Access.bind_mapState (push_mapState hg (hi8 v) s) fun _ w => push_mapState hg (lo8 v) w

theorem pullWord_mapState (hg : Bystander g) (s : State) :
    pullWord (g s) = (pullWord s).mapState g :=
  Access.bind_mapState (pull_mapState hg s) fun _ w =>
    Access.bind_mapState (pull_mapState hg w) fun _ _ => rfl

end Bystanders

section Shapes

variable {g : State → State} {i : Instr} {s : State}

theorem conclude_mapOutcome {α : Type} (hg : KeepsBus g) {r : Access α} {f f' : α → State → State}
    (hf : ∀ v w, f' v (g w) = g (f v w)) :
    conclude (g s) (r.mapState g) f' = mapOutcome g (conclude s r f) := by
  cases r with
  | ok v w => exact congrArg Host.Outcome.next (hf v w)
  | err e w =>
    have hleft : (g s).abort (g w) = g (s.abort w) := by
      rw [State.abort_eq, State.abort_eq, hg.bus_eq, hg.setBus_eq]
    exact congrArg (fun left => Host.Outcome.fault (Fault.addressError e.addr e.kind left)) hleft

/-- The frame of an instruction around effects that see nothing of `g`. -/
theorem runInstr_mapOutcome (hg : Bystander g) {body body' : State → Access Flow}
    (hbody : ∀ w, body' (g w) = (body w).mapState g) :
    runInstr i (g s) body' = mapOutcome g (runInstr i s body) := by
  cases hc : i.cost with
  | none =>
    unfold runInstr
    rw [hc]
    rfl
  | some c =>
    have hadvance : (g s).advance i.length = g (s.advance i.length) := by
      rw [State.advance_eq, State.advance_eq, hg.pc_eq, hg.setPc_eq]
    rw [runInstr_eq hc, runInstr_eq hc, hadvance, hbody]
    exact conclude_mapOutcome hg.toKeepsBus fun f w => hg.retire_eq i s c f w

variable {o : Operand}

theorem readShape_mapOutcome (hg : Bystander g) {f : Byte → State → State}
    (hf : ∀ m w, f m (g w) = g (f m w)) :
    readShape i o (g s) f = mapOutcome g (readShape i o s f) :=
  runInstr_mapOutcome hg fun w => Access.bind_mapState (resolve_mapState hg o w) fun r w1 =>
    Access.bind_mapState (readLocation_mapState hg r.loc w1) fun m w2 => congrArg _ (hf m w2)

theorem storeShape_mapOutcome (hg : Bystander g) {v : State → Byte} (hv : ∀ w, v (g w) = v w) :
    storeShape i o (g s) v = mapOutcome g (storeShape i o s v) := by
  refine runInstr_mapOutcome hg fun w => Access.bind_mapState (resolve_mapState hg o w) fun r w1 => ?_
  rw [hv]
  exact Access.bind_mapState (writeLocation_mapState hg r.loc (v w1) w1) fun _ _ => rfl

theorem modifyShape_mapOutcome (hg : Bystander g) {f : Byte → Status → Byte × Status}
    (hbyte : ∀ v w, (f v (g w).p).1 = (f v w.p).1)
    (hflags : ∀ v w u, (g u).setP (f v (g w).p).2 = g (u.setP (f v w.p).2)) :
    modifyShape i o (g s) f = mapOutcome g (modifyShape i o s f) := by
  refine runInstr_mapOutcome hg fun w => Access.bind_mapState (resolve_mapState hg o w) fun r w1 =>
    Access.bind_mapState (readLocation_mapState hg r.loc w1) fun v w2 => ?_
  rw [hbyte]
  exact Access.bind_mapState (writeLocation_mapState hg r.loc _ w2) fun _ u =>
    congrArg _ (hflags v w2 u)

theorem impliedShape_mapOutcome (hg : Bystander g) {f : State → State}
    (hf : ∀ w, f (g w) = g (f w)) : impliedShape i (g s) f = mapOutcome g (impliedShape i s f) :=
  runInstr_mapOutcome hg fun w => congrArg _ (hf w)

theorem stackShape_mapOutcome (hg : Bystander g) {f : State → Access Unit}
    (hf : ∀ w, f (g w) = (f w).mapState g) :
    stackShape i (g s) f = mapOutcome g (stackShape i s f) :=
  runInstr_mapOutcome hg fun w => Access.bind_mapState (hf w) fun _ _ => rfl

theorem branchShape_mapOutcome (hg : Bystander g) {d : Byte} {cond : Bool} :
    branchShape i d (g s) cond = mapOutcome g (branchShape i d s cond) := by
  refine runInstr_mapOutcome hg fun w => ?_
  cases cond with
  | false =>
    simp only [hg.pc_eq]
    rfl
  | true =>
    simp only [hg.pc_eq, if_true, State.jump_eq, hg.setPc_eq]
    rfl

theorem jumpLocation_eq_of_bystander (hg : Bystander g) (l : Location) (w : State) :
    jumpLocation l (g w) = g (jumpLocation l w) := by
  cases l with
  | memory ea => exact hg.setPc_eq w ea
  | _ => rfl

theorem execJmp_mapOutcome (hg : Bystander g) :
    execJmp o (g s) = mapOutcome g (execJmp o s) :=
  runInstr_mapOutcome hg fun w => Access.bind_mapState (resolve_mapState hg o w) fun r w1 =>
    congrArg _ (jumpLocation_eq_of_bystander hg r.loc w1)

end Shapes

section Disturbed

/-- The state with the counter `n` higher and, if `d` gives one, another value of D. -/
def disturbed (d : Option Bool) (n : Nat) (s : State) : State :=
  { s with p := { s.p with d := d.getD s.p.d }, cycles := s.cycles + n }

variable {d : Option Bool} {n : Nat} {i : Instr} {s : State}

theorem disturbed_bystander (d : Option Bool) (n : Nat) : Bystander (disturbed d n) where
  bus_eq _ := rfl
  setBus_eq _ _ := rfl
  a_eq _ := rfl
  x_eq _ := rfl
  y_eq _ := rfl
  sp_eq _ := rfl
  pc_eq _ := rfl
  setA_eq _ _ := rfl
  setSp_eq _ _ := rfl
  setPc_eq _ _ := rfl
  retire_eq i s c f w := by
    have hcycles : w.cycles + n + c.base + penaltyCycles c.penalty f
        = w.cycles + c.base + penaltyCycles c.penalty f + n := by omega
    exact congrArg (retire i s c f (disturbed d n w)).setCycles hcycles

theorem ite_refused_mapOutcome {g : State → State} {b b' : Bool} (hb : b' = b) {x : Refusal}
    {r r' : Host.Outcome State Fault Refusal} (h : r' = mapOutcome g r) :
    (if b' then .refused x else r') = mapOutcome g (if b then .refused x else r) := by
  subst hb
  cases b' with
  | true => rfl
  | false => exact h

/-- An instruction that neither pushes nor writes D sees nothing of the disturbance, when ADC and SBC are
refused alike. -/
theorem exec_disturbed (hi : i ∉ [.php, .brk, .sed, .cld, .plp, .rti])
    (hd : (disturbed d n s).refusesDecimal = s.refusesDecimal) :
    exec i (disturbed d n s) = mapOutcome (disturbed d n) (exec i s) := by
  have hg := disturbed_bystander d n
  unfold exec
  cases i with
  | adc o | sbc o =>
    exact ite_refused_mapOutcome hd (readShape_mapOutcome hg fun _ _ => rfl)
  | lda o | ldx o | ldy o | and o | ora o | eor o | cmp o | cpx o | cpy o | bit o =>
    exact readShape_mapOutcome hg fun _ _ => rfl
  | sta o | stx o | sty o => exact storeShape_mapOutcome hg fun _ => rfl
  | asl o | lsr o | rol o | ror o | inc o | dec o =>
    exact modifyShape_mapOutcome hg (fun _ _ => rfl) fun _ _ _ => rfl
  | jmp o => exact execJmp_mapOutcome hg
  | bpl d | bmi d | bvc d | bvs d | bcc d | bcs d | bne d | beq d =>
    exact branchShape_mapOutcome hg
  | jsr dest =>
    exact stackShape_mapOutcome hg fun w =>
      Access.bind_mapState (pushWord_mapState hg _ w) fun _ _ => rfl
  | rts =>
    exact stackShape_mapOutcome hg fun w =>
      Access.bind_mapState (pullWord_mapState hg w) fun _ _ => rfl
  | pha => exact stackShape_mapOutcome hg fun w => push_mapState hg w.a w
  | pla =>
    exact stackShape_mapOutcome hg fun w =>
      Access.bind_mapState (pull_mapState hg w) fun _ _ => rfl
  | php | brk | sed | cld | plp | rti => exact absurd hi (by decide)
  | illegal op => rfl
  | _ => exact impliedShape_mapOutcome hg fun _ => rfl

/-- Settles O21: setting D is a disturbance, and where D is ignored nothing is refused. -/
theorem decimalFlagIsIgnored : Obligations.DecimalFlagIsIgnored := by
  intro i s b hmode hphp hbrk hsed hcld hplp hrti
  have hg : withDecimal b = disturbed (some b) 0 := rfl
  have hrefuses : ∀ t : State, t.cfg.decimalMode = .ignored → t.refusesDecimal = false := by
    intro t ht
    rw [State.refusesDecimal, ht]
    exact Bool.and_false _
  rw [hg]
  refine exec_disturbed ?_ ((hrefuses (disturbed (some b) 0 s) hmode).trans (hrefuses s hmode).symm)
  simp [hphp, hbrk, hsed, hcld, hplp, hrti]

end Disturbed

section Counter

variable {n : Nat} {s : State}

theorem enterTrap_disturbed (vec : Word) (brk : Bool) (s : State) :
    enterTrap vec brk (disturbed none n s) = (enterTrap vec brk s).mapState (disturbed none n) := by
  have hread := read16_mapState (disturbed_bystander none n).toKeepsBus vec (trapEntered brk s)
  rw [enterTrap_eq, enterTrap_eq]
  exact Access.bind_mapState hread fun _ _ => rfl

theorem returnFromTrap_disturbed (s : State) :
    returnFromTrap (disturbed none n s) = (returnFromTrap s).mapState (disturbed none n) := by
  rw [returnFromTrap_eq, returnFromTrap_eq]
  rfl

/-- No instruction sees a change of the counter alone. -/
theorem exec_counter (i : Instr) (s : State) :
    exec i (disturbed none n s) = mapOutcome (disturbed none n) (exec i s) := by
  have hg := disturbed_bystander none n
  by_cases hi : i ∈ [Instr.php, .brk, .sed, .cld, .plp, .rti]
  · unfold exec
    cases i with
    | php => exact stackShape_mapOutcome hg fun w => push_mapState hg (w.p.pushed true) w
    | brk => exact stackShape_mapOutcome hg fun w => enterTrap_disturbed irqVector true (w.advance 1)
    | sed | cld => exact impliedShape_mapOutcome hg fun _ => rfl
    | plp =>
      exact stackShape_mapOutcome hg fun w =>
        Access.bind_mapState (pull_mapState hg w) fun _ _ => rfl
    | rti => exact stackShape_mapOutcome hg returnFromTrap_disturbed
    | _ => simp at hi
  · exact exec_disturbed hi rfl

theorem enterInterrupt_counter (k : Interrupt) (s : State) :
    enterInterrupt k (disturbed none n s) = mapOutcome (disturbed none n) (enterInterrupt k s) := by
  rw [enterInterrupt, enterTrap_disturbed]
  refine conclude_mapOutcome (disturbed_bystander none n).toKeepsBus fun _ w => ?_
  have hcycles : w.cycles + n + 7 = w.cycles + 7 + n := by omega
  cases k with
  | nmi => exact congrArg (finishEntry .nmi w).setCycles hcycles
  | irq => exact congrArg (finishEntry .irq w).setCycles hcycles

theorem stepInstr_counter (s : State) :
    stepInstr (disturbed none n s) = mapOutcome (disturbed none n) (stepInstr s) := by
  rw [stepInstr, stepInstr, fetch_mapState (disturbed_bystander none n)]
  cases fetch s with
  | ok i w => exact exec_counter i w
  | err e w => rfl

/-- An observer who cannot see the counter sees nothing of a change of it. -/
theorem mapOutcome_setCycles_disturbed (r : Host.Outcome State Fault Refusal) :
    mapOutcome (fun t => t.setCycles 0) (mapOutcome (disturbed none n) r)
      = mapOutcome (fun t => t.setCycles 0) r := by
  cases r with
  | next t => rfl
  | fault x => cases x <;> rfl
  | refused x => rfl

/-- The reset sequence clears the counter, whatever it held (R352). -/
theorem takeReset_counter (s : State) :
    mapOutcome (fun t => t.setCycles 0) (takeReset (disturbed none n s))
      = mapOutcome (fun t => t.setCycles 0) (takeReset s) := by
  rw [takeReset, takeReset, read16_mapState (disturbed_bystander none n).toKeepsBus]
  cases read16 resetVector s <;> rfl

theorem step_counter (n : Nat) (s : State) :
    mapOutcome (fun t => t.setCycles 0) (step (disturbed none n s))
      = mapOutcome (fun t => t.setCycles 0) (step s) := by
  have hreset : (disturbed none n s).resetPending = s.resetPending := rfl
  have hnmi : (disturbed none n s).nmiRecognised = s.nmiRecognised := rfl
  have hirq : (disturbed none n s).irqRecognised = s.irqRecognised := rfl
  unfold step
  rw [hreset, hnmi, hirq]
  split
  · exact takeReset_counter s
  · split
    · rw [enterInterrupt_counter, mapOutcome_setCycles_disturbed]
    · split
      · rw [enterInterrupt_counter, mapOutcome_setCycles_disturbed]
      · rw [stepInstr_counter, mapOutcome_setCycles_disturbed]

/-- Settles O48: two states that differ in the counter alone are both reached from the one with counter 0
by raising the counter. -/
theorem counterDecidesNothing : Obligations.CounterDecidesNothing := by
  intro s n
  have hraise : ∀ k, disturbed none k (s.setCycles 0) = s.setCycles k :=
    fun k => congrArg s.setCycles (Nat.zero_add k)
  have hn := step_counter n (s.setCycles 0)
  have hs := step_counter s.cycles (s.setCycles 0)
  rw [hraise] at hn hs
  exact hn.trans hs.symm

end Counter

end Sys2Proof.Machine
end

section
/-! SUPPORT. What an instruction that completes writes, said once for every instruction (`10_state.md`,
R31 to R51; R38, R144), and the obligations that ask for the writers of a part of the state. -/

namespace Sys2Proof.Machine

section Parts

/-- The parts of the state that an instruction can write. -/
inductive Part where
  | a | x | y | sp | pc | ram | c | z | i | d | v | n

/-- Where a shift of an operand form puts its result (R240). -/
def placeWritten : Operand → Part
  | .accumulator => .a
  | _ => .ram

@[simp] theorem eq_placeWritten_iff (part : Part) (o : Operand) :
    part = placeWritten o ↔ part = .a ∧ o = .accumulator ∨ part = .ram ∧ o ≠ .accumulator := by
  cases o <;> simp [placeWritten]

theorem placeWritten_of_ne {o : Operand} (h : o ≠ .accumulator) : placeWritten o = .ram :=
  ((eq_placeWritten_iff .ram o).mpr (.inr ⟨rfl, h⟩)).symm

/-- What the instructions write. -/
def writes : Instr → List Part
  | .lda _ | .and _ | .ora _ | .eor _ | .txa | .tya => [.a, .z, .n]
  | .ldx _ | .tax | .tsx | .inx | .dex => [.x, .z, .n]
  | .ldy _ | .tay | .iny | .dey => [.y, .z, .n]
  | .sta _ | .stx _ | .sty _ => [.ram]
  | .txs => [.sp]
  | .adc _ | .sbc _ => [.a, .c, .z, .v, .n]
  | .cmp _ | .cpx _ | .cpy _ => [.c, .z, .n]
  | .bit _ => [.z, .v, .n]
  | .asl o | .lsr o | .rol o | .ror o => [placeWritten o, .c, .z, .n]
  | .inc _ | .dec _ => [.ram, .z, .n]
  | .jmp _ | .bpl _ | .bmi _ | .bvc _ | .bvs _ | .bcc _ | .bcs _ | .bne _ | .beq _ => [.pc]
  | .jsr _ => [.sp, .pc, .ram]
  | .rts => [.sp, .pc]
  | .pha | .php => [.sp, .ram]
  | .pla => [.a, .sp, .z, .n]
  | .plp => [.sp, .c, .z, .i, .d, .v, .n]
  | .clc | .sec => [.c]
  | .cli | .sei => [.i]
  | .clv => [.v]
  | .cld | .sed => [.d]
  | .brk => [.sp, .pc, .ram, .i]
  | .rti => [.sp, .pc, .c, .z, .i, .d, .v, .n]
  | .nop | .illegal _ => []

/-- The part is in `t` as it was in `s`; PC, which every instruction moves past itself, is `next`. -/
def Part.Kept (s t : State) (next : Word) : Part → Prop
  | .a => t.a = s.a
  | .x => t.x = s.x
  | .y => t.y = s.y
  | .sp => t.sp = s.sp
  | .pc => t.pc = next
  | .ram => ∀ k, t.bus.ram.read k = s.bus.ram.read k
  | .c => t.p.c = s.p.c
  | .z => t.p.z = s.p.z
  | .i => t.p.i = s.p.i
  | .d => t.p.d = s.p.d
  | .v => t.p.v = s.p.v
  | .n => t.p.n = s.p.n

end Parts

section Effects

/-- The effect `g` keeps every part of the state but those listed. -/
def KeepsBut (parts : List Part) (g : State → State) : Prop :=
  ∀ w, ∀ part ∉ parts, part.Kept w (g w) w.pc

theorem keepsBut_id : KeepsBut [] id := by
  intro w part
  cases part <;> simp [Part.Kept]

theorem keepsBut_setSp (v : State → Byte) : KeepsBut [.sp] fun w => w.setSp (v w) := by
  intro w part
  cases part <;> simp [Part.Kept]

/-- A data register as a part of the state. -/
def Reg.part : Reg → Part
  | .a => .a
  | .x => .x
  | .y => .y

theorem keepsBut_loadReg (r : Reg) (v : State → Byte) :
    KeepsBut [r.part, .z, .n] fun w => w.loadReg r (v w) := by
  intro w part
  cases r <;> cases part <;> simp [Part.Kept, Reg.part, State.loadReg_eq, withZN]

theorem keepsBut_loadSum (sum : State → Sum) :
    KeepsBut [.a, .c, .z, .v, .n] fun w => w.loadSum (sum w) := by
  intro w part
  cases part <;> simp [Part.Kept, State.loadSum_eq, withZN]

theorem keepsBut_afterCompare (r : Reg) (m : Byte) :
    KeepsBut [.c, .z, .n] fun w => w.setP (w.p.afterCompare (w.getReg r) m) := by
  intro w part
  cases part <;> simp [Part.Kept, Status.afterCompare]

theorem keepsBut_afterBit (m : Byte) :
    KeepsBut [.z, .v, .n] fun w => w.setP (w.p.afterBit w.a m) := by
  intro w part
  cases part <;> simp [Part.Kept, Status.afterBit]

theorem keepsBut_afterShift (sh : State → Shifted) :
    KeepsBut [.c, .z, .n] fun w => w.setP (w.p.afterShift (sh w)) := by
  intro w part
  cases part <;> simp [Part.Kept, Status.afterShift, Status.deriveZN]

theorem keepsBut_deriveZN (r : Byte) : KeepsBut [.z, .n] fun w => w.setP (w.p.deriveZN r) := by
  intro w part
  cases part <;> simp [Part.Kept, Status.deriveZN]

/-- The flags that have a field, as parts of the state. -/
def Flag.parts : Flag → List Part
  | .c => [.c]
  | .z => [.z]
  | .i => [.i]
  | .d => [.d]
  | .b => []
  | .u => []
  | .v => [.v]
  | .n => [.n]

theorem keepsBut_setFlag (f : Flag) (b : Bool) : KeepsBut f.parts fun w => w.setP (w.p.set f b) := by
  intro w part
  cases f <;> cases part <;> simp [Part.Kept, Flag.parts, Status.set]

end Effects

section Shapes

variable {i : Instr} {o : Operand} {s t : State} {parts : List Part}

/-- The instruction `i`, from `s` to `t`, keeps every part of the state but those listed. -/
def InstrKeepsBut (parts : List Part) (i : Instr) (s t : State) : Prop :=
  ∀ part ∉ parts, part.Kept s t (s.pc + BitVec.ofNat 16 i.length)

theorem readShape_keepsBut {f : Byte → State → State} (hf : ∀ m, KeepsBut parts (f m))
    (h : readShape i o s f = .next t) : InstrKeepsBut parts i s t := by
  obtain ⟨c, m, crossed, b, -, hram, -, rfl⟩ := readShape_next h
  intro part hpart
  have hkept := hf m { s with pc := s.pc + BitVec.ofNat 16 i.length, bus := b } part hpart
  cases part with
  | ram => exact fun k => (hkept k).trans (congrArg (Memory.read · k) hram)
  | _ => exact hkept

theorem storeShape_keepsBut {v : State → Byte} (ho : o ≠ .accumulator)
    (h : storeShape i o s v = .next t) : InstrKeepsBut [.ram] i s t := by
  obtain ⟨c, crossed, b, -, -, ht, ha, -⟩ := storeShape_next h
  rw [ha ho] at ht
  subst ht
  intro part hpart
  cases part with
  | ram => exact absurd (List.mem_singleton_self _) hpart
  | _ => rfl

theorem modifyShape_keepsBut {f : Byte → Status → Byte × Status}
    (hf : ∀ v, KeepsBut parts fun w => w.setP (f v w.p).2) (h : modifyShape i o s f = .next t) :
    InstrKeepsBut (placeWritten o :: parts) i s t := by
  obtain ⟨c, crossed, b, v, -, -, ht, ha, hram, -⟩ := modifyShape_next h
  intro part hpart
  obtain ⟨hplace, hrest⟩ := not_or.mp (mt List.mem_cons.mpr hpart)
  have hkept := hf v { s with pc := s.pc + BitVec.ofNat 16 i.length } part hrest
  rw [eq_placeWritten_iff, not_or] at hplace
  rw [ht]
  cases part with
  | a => exact ha (by simpa using hplace)
  | ram => exact fun k => congrArg (Memory.read · k) (hram (by simpa using hplace))
  | _ => exact hkept

theorem impliedShape_keepsBut {f : State → State} (hf : KeepsBut parts f)
    (h : impliedShape i s f = .next t) : InstrKeepsBut parts i s t := by
  obtain ⟨c, -, rfl⟩ := impliedShape_next h
  intro part hpart
  have hkept := hf (s.advance i.length) part hpart
  cases part <;> exact hkept

theorem branchShape_keepsBut {d : Byte} {cond : Bool} (h : branchShape i d s cond = .next t) :
    InstrKeepsBut [.pc] i s t := by
  obtain ⟨c, pc, crossed, -, rfl⟩ := branchShape_next h
  intro part hpart
  cases part with
  | pc => exact absurd (List.mem_singleton_self _) hpart
  | ram => exact fun _ => rfl
  | _ => rfl

theorem execJmp_keepsBut (h : execJmp o s = .next t) : InstrKeepsBut [.pc] (.jmp o) s t := by
  obtain ⟨c, f, w, -, hb, rfl⟩ := runInstr_eq_next h
  obtain ⟨r, w1, hr, hb⟩ := Access.bind_eq_ok hb
  obtain ⟨-, rfl⟩ := Access.ok.inj hb
  obtain ⟨hw, hram, -⟩ := (resolve_readsOnly o (s.advance (Instr.jmp o).length)).of_ok hr
  intro part hpart
  rw [hw]
  cases part with
  | pc => exact absurd (List.mem_singleton_self _) hpart
  | ram => cases r.loc <;> exact fun k => congrArg (Memory.read · k) hram
  | _ => cases r.loc <;> rfl

theorem stackShape_keepsBut {f : State → Access Unit}
    (hf : ∀ w u, f w = .ok () u → ∀ part ∉ parts, part.Kept w u w.pc)
    (h : stackShape i s f = .next t) : InstrKeepsBut parts i s t := by
  obtain ⟨c, w, -, hw, rfl⟩ := stackShape_next h
  intro part hpart
  have hkept := hf _ w hw part hpart
  cases part <;> exact hkept

/-- ADC and SBC complete only where rule R231 does not refuse them. -/
theorem of_ite_refused {b : Bool} {x : Refusal} {r : Host.Outcome State Fault Refusal}
    (h : (if b then .refused x else r) = .next t) : r = .next t := by
  cases b with
  | true => cases h
  | false => exact h

/-- An instruction that completes has a row in the table (log 13). -/
theorem exec_next_cost (h : exec i s = .next t) : i.cost ≠ none := by
  obtain ⟨c, f, w, hc, -, -⟩ := exec_next_framed h
  rw [hc]
  nofun

/-- An instruction that completes keeps every part of the state that it does not write. -/
theorem exec_keepsBut (h : exec i s = .next t) : InstrKeepsBut (writes i) i s t := by
  have hcost := exec_next_cost h
  unfold exec at h
  cases i with
  | lda o | and o | ora o | eor o =>
    exact readShape_keepsBut (fun m => keepsBut_loadReg .a _) h
  | ldx o => exact readShape_keepsBut (fun m => keepsBut_loadReg .x _) h
  | ldy o => exact readShape_keepsBut (fun m => keepsBut_loadReg .y _) h
  | adc o | sbc o =>
    exact readShape_keepsBut (fun m => keepsBut_loadSum _) (of_ite_refused h)
  | cmp o => exact readShape_keepsBut (keepsBut_afterCompare .a) h
  | cpx o => exact readShape_keepsBut (keepsBut_afterCompare .x) h
  | cpy o => exact readShape_keepsBut (keepsBut_afterCompare .y) h
  | bit o => exact readShape_keepsBut keepsBut_afterBit h
  | sta o | stx o | sty o =>
    have ho : o ≠ .accumulator := by
      rintro rfl
      exact hcost rfl
    exact storeShape_keepsBut ho h
  | asl o | lsr o | rol o | ror o =>
    exact modifyShape_keepsBut (fun v => keepsBut_afterShift _) h
  | inc o | dec o =>
    have ho : o ≠ .accumulator := by
      rintro rfl
      exact hcost rfl
    have hkept := modifyShape_keepsBut (fun v => keepsBut_deriveZN _) h
    rwa [placeWritten_of_ne ho] at hkept
  | txa | tya => exact impliedShape_keepsBut (keepsBut_loadReg .a _) h
  | tax | tsx | inx | dex => exact impliedShape_keepsBut (keepsBut_loadReg .x _) h
  | tay | iny | dey => exact impliedShape_keepsBut (keepsBut_loadReg .y _) h
  | txs => exact impliedShape_keepsBut (keepsBut_setSp _) h
  | clc | sec => exact impliedShape_keepsBut (keepsBut_setFlag .c _) h
  | cli | sei => exact impliedShape_keepsBut (keepsBut_setFlag .i _) h
  | clv => exact impliedShape_keepsBut (keepsBut_setFlag .v _) h
  | cld | sed => exact impliedShape_keepsBut (keepsBut_setFlag .d _) h
  | nop => exact impliedShape_keepsBut keepsBut_id h
  | jmp o => exact execJmp_keepsBut h
  | bpl d | bmi d | bvc d | bvs d | bcc d | bcs d | bne d | beq d => exact branchShape_keepsBut h
  | jsr dest | rts | pha | php | pla | plp | rti =>
    refine stackShape_keepsBut (fun w u hw part => ?_) h
    simp only [push_eq, pushWord_eq, pull_eq, pullWord_eq, returnFromTrap_eq, Access.bind_ok] at hw
    cases hw
    cases part <;> simp [writes, Part.Kept, State.loadReg_eq, withZN]
  | brk =>
    refine stackShape_keepsBut (fun w u hw part => ?_) h
    obtain ⟨pc, b, -, -, rfl⟩ := enterTrap_ok hw
    cases part <;> simp [writes, Part.Kept]
  | illegal op => cases h

end Shapes

theorem mem_writes_of_not_kept {i : Instr} {s t : State} (h : exec i s = .next t) {part : Part}
    (hpart : ¬ part.Kept s t (s.pc + BitVec.ofNat 16 i.length)) : part ∈ writes i :=
  not_imp_comm.mp (exec_keepsBut h part) hpart

section Writers

/-- Settles O52: a flag that has changed is a part that the instruction writes. -/
theorem flagsChangeOnlyByTheirWriters : Obligations.FlagsChangeOnlyByTheirWriters := by
  intro i s t h
  refine ⟨fun hi => ?_, fun hd => ?_, fun hv => ?_, fun hc => ?_, fun hzn => ?_⟩
  · have hmem := mem_writes_of_not_kept h (part := .i) hi
    cases i <;> simp [writes] at hmem ⊢
  · have hmem := mem_writes_of_not_kept h (part := .d) hd
    cases i <;> simp [writes] at hmem ⊢
  · have hmem := mem_writes_of_not_kept h (part := .v) hv
    cases i <;> simp [writes] at hmem ⊢
  · have hmem := mem_writes_of_not_kept h (part := .c) hc
    cases i <;> simp [writes] at hmem ⊢
  · have hmem : .z ∈ writes i ∨ .n ∈ writes i :=
      hzn.imp (mem_writes_of_not_kept h (part := .z)) (mem_writes_of_not_kept h (part := .n))
    cases i <;> simp [writes] at hmem ⊢

/-- Settles O53: a register that has changed is a part that the instruction writes, and the effect of an
instruction is framed. -/
theorem registersChangeOnlyByTheirWriters : Obligations.RegistersChangeOnlyByTheirWriters := by
  intro i s t h
  obtain ⟨c, f, w, -, hw, rfl⟩ := exec_next_framed h
  obtain ⟨hvideo, hio, hcart⟩ := hw.devices
  refine ⟨fun ha => ?_, fun hx => ?_, fun hy => ?_, fun hsp => ?_, hw.resetPending, hw.nmiPending,
    hw.irqLine, hvideo, hio, hcart, hw.cfg⟩
  · have hmem := mem_writes_of_not_kept h (part := .a) ha
    cases i <;> simp [writes] at hmem ⊢
    all_goals exact hmem
  · have hmem := mem_writes_of_not_kept h (part := .x) hx
    cases i <;> simp [writes] at hmem ⊢
  · have hmem := mem_writes_of_not_kept h (part := .y) hy
    cases i <;> simp [writes] at hmem ⊢
  · have hmem := mem_writes_of_not_kept h (part := .sp) hsp
    cases i <;> simp [writes] at hmem ⊢

/-- Settles O54: PC is written by the control transfers alone. -/
theorem pcAdvancesByTheLength : Obligations.PcAdvancesByTheLength := by
  intro i s t h
  by_cases hpc : t.pc = s.pc + BitVec.ofNat 16 i.length
  · exact .inl hpc
  · refine .inr ?_
    have hmem := mem_writes_of_not_kept h (part := .pc) hpc
    cases i <;> simp [writes] at hmem ⊢

/-- Settles O55: the RAM is written by the instructions excluded alone. -/
theorem nonStoringInstructionsKeepRam : Obligations.NonStoringInstructionsKeepRam := by
  intro i s t h hpush hjsr hstore hshift
  refine exec_keepsBut h .ram ?_
  cases i <;> simp [writes] at hpush hjsr hstore hshift ⊢
  all_goals exact hshift

end Writers

end Sys2Proof.Machine
end

section
/-! SUPPORT. The bytes of the RAM and the calls of the instructions that write (`20_memory.md`, R79, R85;
`41_fetch_dispatch.md`, R171), and the obligations about them. -/

namespace Sys2Proof.Machine

section OneByte

variable {i : Instr} {o : Operand} {s t w : State} {r : Resolved}

/-- From `s` to `t`, no byte of the RAM but the one at the place `r` has changed. -/
def TouchesOnly (r : Resolved) (s t : State) : Prop :=
  ∀ k, (∀ ea, r.loc = .memory ea → target ea ≠ .ram k) → t.bus.ram.read k = s.bus.ram.read k

theorem storeShape_touchesOnly {v : State → Byte} (hr : operandPlace i o s = .ok r w)
    (h : storeShape i o s v = .next t) : TouchesOnly r s t := by
  obtain ⟨c, crossed, b, -, -, ht, -, r', w', hr', hram⟩ := storeShape_next h
  obtain ⟨rfl, -⟩ := Access.ok.inj (hr'.symm.trans hr)
  rw [ht]
  exact hram

theorem modifyShape_touchesOnly {f : Byte → Status → Byte × Status}
    (hr : operandPlace i o s = .ok r w) (h : modifyShape i o s f = .next t) : TouchesOnly r s t := by
  obtain ⟨c, crossed, b, v, -, -, ht, -, -, r', w', hr', hram⟩ := modifyShape_next h
  obtain ⟨rfl, -⟩ := Access.ok.inj (hr'.symm.trans hr)
  rw [ht]
  exact hram

/-- Settles O56: three of the nine are the store shape and six the read-modify-write shape, and each
writes the place its operand resolves to. -/
theorem storingInstructionsTouchOneByte : Obligations.StoringInstructionsTouchOneByte := by
  intro i o s t w r hi hr h
  unfold exec at h
  simp only [List.mem_cons, List.not_mem_nil, or_false] at hi
  rcases hi with rfl | rfl | rfl | rfl | rfl | rfl | rfl | rfl | rfl
  iterate 3 exact storeShape_touchesOnly hr h
  iterate 6 exact modifyShape_touchesOnly hr h

end OneByte

section StackBytes

variable {s t : State} {k : Nat}

/-- BRK changes the three bytes of its trap entry alone. -/
theorem exec_brk_read_ne (h : exec .brk s = .next t) (h0 : k ≠ 0x100 + s.sp.toNat)
    (h1 : k ≠ 0x100 + (s.sp - 1).toNat) (h2 : k ≠ 0x100 + (s.sp - 2).toNat) :
    t.bus.ram.read k = s.bus.ram.read k := by
  have hexec : exec .brk s = execBrk s := rfl
  rw [hexec, execBrk] at h
  obtain ⟨c, w, -, hw, rfl⟩ := stackShape_next h
  obtain ⟨pc, b, hram, -, rfl⟩ := enterTrap_ok hw
  have hsp : s.sp - 1 - 1 = s.sp - 2 := by bv_omega
  rw [← hsp] at h2
  exact (congrArg (Memory.read · k) hram).trans (trapRam_read_ne _ _ _ _ h0 h1 h2)

/-- Settles O57: the RAM after PHA, PHP and JSR is the one their rules state, and BRK's trap entry pushes
three bytes. -/
theorem pushesTouchOnlyTheStack : Obligations.PushesTouchOnlyTheStack := by
  intro s t k
  obtain ⟨-, -, -, -, hstack⟩ := stackInstructionsPushAndPull
  obtain ⟨hpha, hphp, -, -⟩ := hstack s
  obtain ⟨-, hjsr⟩ := jsrPushesItsLastByteAddress
  refine ⟨?_, ?_, ?_⟩
  · rintro (h | h) hk
    · cases hpha.symm.trans h
      exact Memory.read_write_ne _ hk _
    · cases hphp.symm.trans h
      exact Memory.read_write_ne _ hk _
  · intro d h h0 h1
    cases (hjsr d s).2.symm.trans h
    exact (Memory.read_write_ne _ h1 _).trans (Memory.read_write_ne _ h0 _)
  · exact exec_brk_read_ne

end StackBytes

section Calls

variable {i : Instr} {o : Operand} {own : Owner} {a ea : Word} {v : Byte} {b : Bus} {s t w : State}

theorem deviceRead_calls (h : (deviceRead own a b).1 = some v) :
    (deviceRead own a b).2.calls = b.calls ++ [.read own a] := by
  unfold deviceRead at h ⊢
  split at h
  · next hreg =>
    rw [if_pos hreg]
    dsimp only
    split <;> rfl
  · cases h

theorem deviceWrite_ok_calls (h : (deviceWrite own a v b).1 = true) :
    (deviceWrite own a v b).2.calls = b.calls ++ [.write own a v] := by
  cases hreg : (b.collaborator own).registered with
  | true => exact deviceWrite_calls hreg
  | false =>
    rw [deviceWrite_unregistered hreg] at h
    cases h

theorem memRead_ok_calls (hd : target ea = .device own a) (h : memRead ea s = .ok v w) :
    w.bus.calls = s.bus.calls ++ [.read own a] := by
  obtain ⟨hv, rfl⟩ := memRead_eq_ok h
  rw [busRead_device hd] at hv
  rw [State.setBus_bus, busRead_device hd, deviceRead_calls hv]

theorem memWrite_ok_calls {u : Unit} (hd : target ea = .device own a)
    (h : memWrite ea v s = .ok u w) : w.bus.calls = s.bus.calls ++ [.write own a v] := by
  obtain ⟨hv, rfl⟩ := memWrite_eq_ok h
  rw [busWrite_device hd] at hv
  rw [State.setBus_bus, busWrite_device hd, deviceWrite_ok_calls hv]

/-- Every form but JMP's Indirect is resolved without a call: pointers in page zero are in the RAM. -/
theorem resolve_ok_state {r : Resolved} (ho : o.mode ≠ .indirect) (h : resolve o s = .ok r w) :
    w = s := by
  cases o with
  | indirect ptr => exact absurd rfl ho
  | indirectX zp | indirectY zp =>
    simp only [resolve, zpRead16_eq, Access.bind_ok] at h
    exact (Access.ok.inj h).2.symm
  | _ => exact (Access.ok.inj h).2.symm

/-- A read-modify-write of a collaborator's register is one read and one write of it (R85, R171). -/
theorem modifyShape_calls {crossed : Bool} {f : Byte → Status → Byte × Status}
    (ho : o.mode ≠ .indirect) (hr : operandPlace i o s = .ok ⟨.memory ea, crossed⟩ w)
    (hd : target ea = .device own a) (h : modifyShape i o s f = .next t) :
    ∃ v, t.bus.calls = s.bus.calls ++ [.read own a, .write own a v] := by
  obtain ⟨c, fl, u, hc, -, -⟩ := runInstr_eq_next h
  rw [modifyShape_memory_eq hc hr] at h
  obtain ⟨fl', u', hb, rfl⟩ := conclude_eq_next h
  obtain ⟨v, w1, hread, hb⟩ := Access.bind_eq_ok hb
  obtain ⟨_, w2, hwrite, hb⟩ := Access.bind_eq_ok hb
  obtain ⟨-, rfl⟩ := Access.ok.inj hb
  have hw := resolve_ok_state ho hr
  have hcalls : w2.bus.calls = s.bus.calls ++ [.read own a] ++ [.write own a (f v w1.p).1] := by
    rw [memWrite_ok_calls hd hwrite, memRead_ok_calls hd hread, hw]
    rfl
  exact ⟨(f v w1.p).1, hcalls.trans (List.append_assoc ..)⟩

/-- Settles O58: the six are the read-modify-write shape, and no form of theirs is Indirect. -/
theorem readModifyWriteCallsTwice : Obligations.ReadModifyWriteCallsTwice := by
  intro i o ea a crossed own s t w hi hr hd h
  have hcost := exec_next_cost h
  simp only [List.mem_cons, List.not_mem_nil, or_false] at hi
  have ho : o.mode ≠ .indirect := by
    intro ho
    cases o with
    | indirect ptr => rcases hi with rfl | rfl | rfl | rfl | rfl | rfl <;> exact hcost rfl
    | _ => cases ho
  unfold exec at h
  rcases hi with rfl | rfl | rfl | rfl | rfl | rfl <;> exact modifyShape_calls ho hr hd h

end Calls

end Sys2Proof.Machine
end
